-- ==== Sys2Proof/Word.lean ====
section
/-! DEFINITION. The words of the block: bytes, 7-bit patterns and key-sets, frames, decoder arguments, positions
(00_scope.md R9, 30_encoding.md R60, 10_state.md R12). -/

namespace Sys2Proof

/-- A byte, bit 7 the most significant (R9, R45). -/
abbrev Byte := BitVec 8

/-- A 7-segment pattern: bits 6:0 of a digit byte (R64). -/
abbrev Seg := BitVec 7

/-- A key-set: bit `i` stands for the `i`-th symbol of `m 1 2 3 4 u d` (R63, R103). -/
abbrev KeySet := BitVec 7

/-- Format F5, the only frame format: five bytes, `header` sent and received first (R44, R60). -/
structure Frame where
  header : Byte
  p0 : Byte
  p1 : Byte
  p2 : Byte
  ck : Byte
deriving DecidableEq, Repr

/-- The bytes of a frame in wire order `f[0] .. f[4]` (R44). -/
def Frame.bytes (f : Frame) : List Byte := [f.header, f.p0, f.p1, f.p2, f.ck]

/-- The decoders' argument: the frame without its header, `q[i] = f[i+1]` (R112). The length is part of the type. -/
structure Payload where
  q0 : Byte
  q1 : Byte
  q2 : Byte
  q3 : Byte
deriving DecidableEq, Repr

/-- `f[1:5]`, the decoders' argument of a frame (R112). -/
def Frame.payload (f : Frame) : Payload := ⟨f.p0, f.p1, f.p2, f.ck⟩

/-- A position record: the height `mantissa × 10^exponent` (R12). That mantissas are 0..999 and exponents
-2..0 is an invariant of the machine (Safety.lean), not of the type. -/
structure Position where
  mantissa : Nat
  exponent : Int
deriving DecidableEq, Repr

end Sys2Proof
end

