-- ==== Sys2Proof/Config.lean ====
section
/-! DEFINITION. The implementation parameters (00_scope.md R7, 10_state.md R25, 70_reset_and_hazards.md R214) and the digit table's shape
(41_protocol_decoder.md R102). -/

namespace Sys2Proof

/-- The 13 glyphs (R9, R102). The placeholder `?` is `none` of `Option Glyph`. -/
inductive Glyph where
  | digit (n : Fin 10)
  | r
  | t
  | e
deriving DecidableEq, Repr

/-- `DIGIT`: the mapped patterns, each with its glyph; every other pattern is unmapped (R102). -/
abbrev DigitTable := List (Seg × Glyph)

namespace Config

/-- `START_H` (FIXED, R7). -/
def startH : Byte := 0xA5#8
/-- `START_C` (FIXED, R7). -/
def startC : Byte := 0x5A#8
/-- `LENGTH` (FIXED, R7). -/
def length : Nat := 5
/-- `BURST` (FIXED, R7): the writes of a burst. -/
def burst : Nat := 5

end Config

/-- The parameters of R7 that are not FIXED. Constant from reset to reset; no operation writes one (R25). -/
structure Params where
  /-- `KA_INTERVAL`, ticks. -/
  kaInterval : Nat
  /-- `SPACING`, ticks, one value for both bursts. -/
  spacing : Nat
  /-- `WDT_TIMEOUT`, ticks. -/
  wdtTimeout : Nat
  /-- `CHUNK_MAX`, bytes. -/
  chunkMax : Nat
  /-- `PASS_THROUGH`. -/
  passThrough : Bool
  /-- `REMOTE_EN_RESET`. -/
  remoteEnReset : Bool
  /-- `INIT_OK`. -/
  initOk : Bool
  /-- `DIGIT`, `PAT_4` among its entries where it is instantiated. -/
  digit : DigitTable
  /-- `POLL_INTERVAL`: no rule reads it (R7). -/
  pollInterval : Nat
  /-- `TICK`, the real time of one tick: no rule reads it (R7). -/
  tickLength : Nat
deriving DecidableEq, Repr

/-- The constraints of R214 (U12): every duration and `CHUNK_MAX` at least 1; and `DIGIT` is a function
(no pattern has two entries, R102). -/
def Params.ok (c : Params) : Bool :=
  decide (1 ≤ c.kaInterval) && decide (1 ≤ c.spacing) && decide (1 ≤ c.wdtTimeout) && decide (1 ≤ c.chunkMax) &&
    decide (c.digit.map Prod.fst).Nodup

/-- `BUF_CAP`, the most bytes a reader's buffer holds inside one poll (R7, R11). -/
def Params.bufCap (c : Params) : Nat := Config.length - 1 + c.chunkMax

end Sys2Proof
end

