-- ==== Sys2Proof/Syntax.lean ====
section
/-! DEFINITION. The operations of the block, one constructor per row of spec/opcode_table.json (00_scope.md R8), the items the
environment presents them as, and the closed value types of the rules. -/

namespace Sys2Proof

/-- The two serial lines, `X` in the rules: the handset line and the controller line (R41). -/
inductive Line where
  | H
  | C
deriving DecidableEq, Repr

/-- The start byte of a line's reader (R80). -/
def Line.start : Line → Byte
  | .H => Config.startH
  | .C => Config.startC

/-- The preset numbers 1..4 (`SLOT_MIN`..`SLOT_MAX`, R7). -/
inductive Slot where
  | s1
  | s2
  | s3
  | s4
deriving DecidableEq, Repr

def Slot.toNat : Slot → Nat
  | .s1 => 1
  | .s2 => 2
  | .s3 => 3
  | .s4 => 4

/-- The operations. Fields are named as the rows' fields. -/
inductive Instr where
  /-- Frame `5A 00 00 00 00` on the controller line (R105). -/
  | dispNoheight
  /-- Frame `5A 77 6D 78 5C` on the controller line (R106). -/
  | dispReset
  /-- A controller frame whose first digit is `E` (R107). -/
  | dispFault (p0 d1 d2 ck : Byte)
  /-- Every other controller frame (R108). -/
  | dispValue (p0 p1 p2 ck : Byte)
  /-- A handset frame with its key mask (R63, R103). -/
  | button (p0 mask p2 ck : Byte)
  /-- The write of `A5 00 02 FD FF` (R67, R120). -/
  | cmdSlot1
  /-- The write of `A5 00 04 FB FF` (R67, R120). -/
  | cmdSlot2
  /-- The write of `A5 00 08 F7 FF` (R67, R120). -/
  | cmdSlot3
  /-- The write of `A5 00 10 EF FF` (R67, R120). -/
  | cmdSlot4
  /-- The write of `A5 00 60 9F FF` (R67, R122). -/
  | keepalive
  /-- One poll of the handset line (R81 to R91, R130). -/
  | rxH (chunk : List Byte)
  /-- One poll of the controller line (R81 to R91, R136). -/
  | rxC (chunk : List Byte)
  /-- A read error on the handset line (R90). -/
  | rxerrH
  /-- A read error on the controller line (R90). -/
  | rxerrC
  /-- One tick of time (R171). -/
  | tick
  /-- Host: `MOVE_TO(slot)` (R143). -/
  | moveTo (slot : Byte)
  /-- Host: `SET_REMOTE_ENABLED(b)` (R147). -/
  | setRemoteEnabled (b : Bool)
  /-- Host: `CURRENT_POSITION` (R148). -/
  | currentPosition
  /-- `CANCEL` (R167). -/
  | cancel
  /-- `GRANT(Cmd)` (R141). -/
  | grantCmd
  /-- `GRANT(Ka)` (R141). -/
  | grantKa
  /-- `RESET()` (R211). -/
  | reset
  /-- `CHECKSUM(a, b, c)` (R100). -/
  | checksum (a b c : Byte)
  /-- `DIGIT_BYTE(b)` (R101). -/
  | digitByte (b : Byte)
  /-- `DECODE_BUTTON(q)` (R103). -/
  | decodeButton (q0 q1 q2 q3 : Byte)
  /-- `DECODE_DISPLAY(q)` (R104). -/
  | decodeDisplay (q0 q1 q2 q3 : Byte)
  /-- `ENCODE_COMMAND(slot)`: any unsigned number, with no width (R9, R120, R121). -/
  | encodeCommand (slot : Nat)
  /-- `ENCODE_KEEPALIVE()` (R122). -/
  | encodeKeepalive
  /-- `signal_activity()` (R165). -/
  | signalActivity
  /-- `feed()` (R169). -/
  | wdtFeed
deriving DecidableEq, Repr

/-- Where a pending operation stands before it is decoded. DESIGN CHOICE, log 4. -/
inductive Port where
  /-- Five bytes of a frame on the handset line. -/
  | handset
  /-- Five bytes of a frame on the controller line. -/
  | controller
  /-- Five bytes of a frame the block generates for the controller bus. -/
  | bus
  /-- The one-byte operand word of `DIGIT_BYTE`. -/
  | digit
  /-- A line of text in the stimulus notation of R71. -/
  | script
deriving DecidableEq, Repr

/-- An encoded operation: its bytes (text is ASCII) and where they stand. -/
structure Item where
  port : Port
  bytes : List Byte
deriving DecidableEq, Repr

/-- Why an item encodes no operation. -/
inductive DecodeError where
  /-- A frame port holds other than five bytes (R60). -/
  | notFiveBytes
  /-- The header is not the start byte of the line (R61). -/
  | badHeader
  /-- A frame on the bus port is none of the five of R67. -/
  | notGenerated
  /-- The digit port holds other than one byte. -/
  | notOneByte
  /-- A line with no word on it. -/
  | emptyLine
  /-- The first word of a line names no operation. -/
  | unknownWord
  /-- The operands of a line do not have the form of R71. -/
  | badOperands
deriving DecidableEq, Repr

/-- Reader outcomes that carry something (R80). "None" is the absence of an outcome. -/
inductive ReaderOutcome where
  | ok (f : Frame)
  | long (f : Frame) (ckOk : Bool)
  | short (s : List Byte)
  | readError (s : List Byte)
  | canceled
deriving DecidableEq, Repr

/-- The reasons of a `FormatError` (R113). -/
inductive FormatReason where
  | dupDp
  | nonDigit
deriving DecidableEq, Repr

/-- The result record of `DECODE_BUTTON` (R113). -/
structure ButtonState where
  keys : KeySet
  isNone : Bool
  ckBad : Bool
deriving DecidableEq, Repr

/-- The results of `DECODE_DISPLAY` (R113). -/
inductive DisplayResult where
  | noHeight
  | reset
  | fault (code : Nat) (ckBad : Bool)
  | value (mantissa : Nat) (exponent : Int) (ckBad : Bool)
  | formatError (why : FormatReason)
deriving DecidableEq, Repr

/-- The frame categories of the source (R66, R187). -/
inductive Category where
  | button
  | displayValue
  | displayNoHeight
  | displayReset
  | displayFault
  | malformed
deriving DecidableEq, Repr

/-- The error results a host operation can return (R181, second table). -/
inductive HostError where
  | remoteDisabled
  | badSlot
  | notRunning
deriving DecidableEq, Repr

/-- The diagnostic alphabet (R181, first table). -/
inductive Diag where
  | framingShort (x : Line) (s : List Byte)
  | framingLong (x : Line) (f : Frame) (ckOk : Bool)
  | readError (x : Line) (s : List Byte)
  | checksumMismatch (x : Line) (f : Frame)
  | formatError (x : Line) (why : FormatReason) (f : Frame)
  | controllerFault (code : Nat) (ckBad : Bool)
  | displayReset
  | keysChanged (keys : KeySet) (isNone : Bool)
  | canceled (x : Line)
  | initFail
deriving DecidableEq, Repr

/-- What an operation gives back: the host's results (R143, R146, R148) and the results of the pure
functions (R100 to R122). -/
inductive Result where
  | ok
  | error (e : HostError)
  | position (p : Position)
  | byte (b : Byte)
  | digit (g : Option Glyph) (dp : Bool)
  | buttons (r : ButtonState)
  | display (r : DisplayResult)
  | frame (f : Frame)
deriving DecidableEq, Repr

/-- Everything that leaves the block (R9, R72). -/
inductive Output where
  /-- `emit TxCtrl(f)`: a frame on the controller bus. -/
  | txCtrl (f : Frame)
  /-- `emit TxHand(f)`: a frame on the handset line. -/
  | txHand (f : Frame)
  /-- `emit Act(v)`: the activity line. -/
  | act (v : Bool)
  /-- `emit Diag(...)`: the diagnostic sink. -/
  | diag (d : Diag)
  /-- `return v`. -/
  | ret (r : Result)
  /-- `emit HardReset` (R170). -/
  | hardReset
deriving DecidableEq, Repr

end Sys2Proof
end

