-- ==== Sys2Proof/Machine/Flags.lean ====
section
/-! DEFINITION. Every flag computation of the decoder: checksum validity, the decimal-point flag, the no-button bit, and the
left-to-right scan that finds a second decimal point (41_protocol_decoder.md R100, R101, R103, R109). -/

namespace Sys2Proof.Machine

/-- `CHECKSUM(a, b, c)`: formed without loss and reduced modulo 256 (R100, R116). -/
def checksum (a b c : Byte) : Byte := BitVec.ofNat 8 (a.toNat + b.toNat + c.toNat)

/-- `ck_valid(q)` (R100). The header is not part of the sum (R62). -/
def ckValid (q : Payload) : Bool := q.q3 == checksum q.q0 q.q1 q.q2

/-- `ck_bad`, the checksum-mismatch indicator (R111, R113). -/
def ckBad (q : Payload) : Bool := !ckValid q

/-- The decimal-point flag of a digit byte: bit 7, mask `DP_BIT = 0x80` (R64). -/
def dpBit (b : Byte) : Bool := b.getLsbD 7

/-- The distinguished "no button" bit: 1 exactly when the key-set is empty (R113, R115). -/
def noneBit (keys : KeySet) : Bool := keys == 0#7

/-- The category of what a reader returned, given the decode result of an `Ok` frame (R66, R187): `Malformed` is the union of
`Short`, `Long`, `ReadError` and `FormatError`. A cancelled poll delivers nothing. -/
def categoryOf (x : Line) (decoded : Payload → DisplayResult) : ReaderOutcome → Option Category
  | .ok f =>
    match x with
    | .H => some .button
    | .C =>
      match decoded f.payload with
      | .noHeight => some .displayNoHeight
      | .reset => some .displayReset
      | .fault _ _ => some .displayFault
      | .value _ _ _ => some .displayValue
      | .formatError _ => some .malformed
  | .long _ _ => some .malformed
  | .short _ => some .malformed
  | .readError _ => some .malformed
  | .canceled => none

end Sys2Proof.Machine
end

