-- ==== Sys2Proof/Machine/Operands.lean ====
section
/-! DEFINITION. Operand assembly (30_encoding.md R65), the digit decoder (41_protocol_decoder.md R101), the two decode functions (R103, R104 to
R111), the classification of a reader's candidate (40_frame_reader.md R85 to R88) and the command encoder (42_command_encoder.md R120 to
R122). Pure functions: they read their arguments and the digit table only (R114). -/

namespace Sys2Proof.Machine

/-- The twelve entries of R102 that have a value. FIXED: 06, 5B, 4F, 79; derived: 77, 78; the others are DEFAULT entries
the spec supplies from general knowledge (G1 to G6). PRESUMED, log 12: unsafe for claims that need a DEFAULT
entry. -/
def tableR102 : DigitTable :=
  [(0x06#7, .digit 1), (0x5B#7, .digit 2), (0x4F#7, .digit 3), (0x79#7, .e), (0x77#7, .r), (0x78#7, .t),
   (0x6D#7, .digit 5), (0x3F#7, .digit 0), (0x7D#7, .digit 6), (0x07#7, .digit 7), (0x7F#7, .digit 8),
   (0x6F#7, .digit 9)]

/-- The default table with the OPEN entry `PAT_4` given (`some p`) or not instantiated (`none`) (R102, U6). -/
def defaultDigits : Option Seg → DigitTable
  | none => tableR102
  | some p => tableR102 ++ [(p, .digit 4)]

/-- The test parameter set T of 95_test_vectors.md section 0. DESIGN CHOICE, log 2: small convenient numbers, not
claims about the device (U11); unsafe for any claim that leans on one of them. -/
def paramsT : Params where
  kaInterval := 10
  spacing := 2
  wdtTimeout := 20
  chunkMax := 10
  passThrough := true
  remoteEnReset := true
  initOk := true
  digit := defaultDigits none
  pollInterval := 0
  tickLength := 0

/-- Bits 6:0 of a digit byte (R64). -/
def segOf (b : Byte) : Seg := b.setWidth 7

/-- `DIGIT[seg]`, `none` where the pattern is unmapped (R102). -/
def lookupDigit : DigitTable → Seg → Option Glyph
  | [], _ => none
  | (p, g) :: rest, s => if p = s then some g else lookupDigit rest s

/-- `DIGIT_BYTE(b)`: an unmapped pattern gives the placeholder, and its bit 7 is dropped (R101). -/
def digitByte (d : DigitTable) (b : Byte) : Option Glyph × Bool :=
  match lookupDigit d (segOf b) with
  | some g => (some g, dpBit b)
  | none => (none, false)

/-- `val(g)`: 0..9 for a digit glyph, undefined for `R`, `T`, `E` and `?` (R9). -/
def glyphVal : Option Glyph → Option Nat
  | some (.digit n) => some n.val
  | some .r => none
  | some .t => none
  | some .e => none
  | none => none

/-- `DECODE_BUTTON(q)`: the mask is `q[1]`; bit 7 of it, `q[0]` and `q[2]` are ignored (R103, C2). -/
def decodeButton (q : Payload) : ButtonState :=
  let keys : KeySet := q.q1.setWidth 7
  { keys := keys, isNone := noneBit keys, ckBad := ckBad q }

/-- The exponent of a point after digit `i`: `i - 2` (R65, R108). -/
def exponentAt (i : Nat) : Int := (i : Int) - 2

/-- The loop of `DECODE_DISPLAY` over the digit bytes, from index `i` on: whether a point was seen, the exponent so far, the
mantissa so far. Within one byte the duplicate-point test precedes the digit test (R108 to R110, R189). -/
def scanDigits (i : Nat) (seen : Bool) (e : Int) (m : Nat) : List (Option Glyph × Bool) → Except FormatReason (Nat × Int)
  | [] => .ok (m, e)
  | (g, dp) :: rest =>
    if dp && seen then .error .dupDp
    else
      match glyphVal g with
      | none => .error .nonDigit
      | some v => scanDigits (i + 1) (seen || dp) (if dp then exponentAt i else e) (10 * m + v) rest

/-- The fault branch of `DECODE_DISPLAY`: two digits form the code, points are ignored (R107, R110). -/
def decodeFault (d : DigitTable) (q : Payload) : DisplayResult :=
  match glyphVal (digitByte d q.q1).1, glyphVal (digitByte d q.q2).1 with
  | some a, some b => .fault (10 * a + b) (ckBad q)
  | _, _ => .formatError .nonDigit

/-- The value branch of `DECODE_DISPLAY`; the checksum is looked at last (R108 to R111). -/
def decodeValue (d : DigitTable) (q : Payload) : DisplayResult :=
  match scanDigits 0 false 0 0 [digitByte d q.q0, digitByte d q.q1, digitByte d q.q2] with
  | .ok (m, e) => .value m e (ckBad q)
  | .error why => .formatError why

/-- The all-zero argument (R105). -/
def zeroPayload : Payload := ⟨0x00#8, 0x00#8, 0x00#8, 0x00#8⟩

/-- The reset pattern, "RST" and its checksum (R106, C6). -/
def resetPayload : Payload := ⟨0x77#8, 0x6D#8, 0x78#8, 0x5C#8⟩

/-- The first digit of `q` is `E` (R107). -/
def startsWithE (d : DigitTable) (b : Byte) : Bool := lookupDigit d (segOf b) == some .e

/-- `DECODE_DISPLAY(q)`: the tests in the order of R104. -/
def decodeDisplay (d : DigitTable) (q : Payload) : DisplayResult :=
  if q = zeroPayload then .noHeight
  else if q = resetPayload then .reset
  else if startsWithE d q.q0 then decodeFault d q
  else decodeValue d q

/-- The form of a generated frame with key mask `m` (R63, R120, R122, R123). -/
def synthFrame (m : Byte) : Frame := ⟨Config.startH, 0x00#8, m, 0xFF#8 - m, 0xFF#8⟩

/-- The preset number a `slot` operand names, if it is in 1..4 (R121, R143). -/
def slotOf (slot : Nat) : Option Slot :=
  match slot with
  | 1 => some .s1
  | 2 => some .s2
  | 3 => some .s3
  | 4 => some .s4
  | _ => none

/-- The command frame of a preset: mask `1 << slot` (R120). -/
def slotFrame (sl : Slot) : Frame := synthFrame (1#8 <<< sl.toNat)

/-- `ENCODE_COMMAND(slot)` (R120, R121). -/
def encodeCommand (slot : Nat) : Except HostError Frame :=
  match slotOf slot with
  | none => .error .badSlot
  | some sl => .ok (slotFrame sl)

/-- `ENCODE_KEEPALIVE()`: the chord of up (bit 5) and down (bit 6) (R122, D17). -/
def encodeKeepalive : Frame := synthFrame (0x20#8 + 0x40#8)

/-- Taking a chunk into a reader's buffer: strays are dropped while it is empty, then every byte is appended (R82, R83). -/
def takeIn (start : Byte) : List Byte → List Byte → List Byte
  | buf, [] => buf
  | buf, x :: rest => takeIn start (if buf.isEmpty && x != start then buf else buf ++ [x]) rest

/-- The candidate of a buffer: its first byte and what follows up to the next start byte (R85). -/
def candidate (start : Byte) : List Byte → List Byte
  | [] => []
  | b :: rest => b :: rest.takeWhile (fun x => x != start)

/-- The outcome a candidate's length decides: exact, long (truncated, with the checksum verdict) or short (R86 to R88). -/
def classify : List Byte → ReaderOutcome
  | [h, a, b, c, k] => .ok ⟨h, a, b, c, k⟩
  | h :: a :: b :: c :: k :: _ :: _ => .long ⟨h, a, b, c, k⟩ (ckValid ⟨a, b, c, k⟩)
  | s => .short s

/-- The code numbers of the diagnostic kinds (R181). -/
def diagCode : Diag → Nat
  | .framingShort _ _ => 1
  | .framingLong _ _ _ => 2
  | .readError _ _ => 3
  | .checksumMismatch _ _ => 4
  | .formatError _ _ _ => 5
  | .controllerFault _ _ => 6
  | .displayReset => 7
  | .keysChanged _ _ => 8
  | .canceled _ => 9
  | .initFail => 10

/-- The code numbers of the error results (R181). -/
def hostErrorCode : HostError → Nat
  | .remoteDisabled => 1
  | .badSlot => 2
  | .notRunning => 3

/-- The numbers of the format-error reasons (R181). -/
def formatReasonCode : FormatReason → Nat
  | .dupDp => 1
  | .nonDigit => 2

end Sys2Proof.Machine
end

