-- ==== Sys2Proof/WellFormed.lean ====
section
/-! DEFINITION. Which operations are well formed under given parameters: the frame classes exclude one another
(30_encoding.md R66) and a chunk has at most `CHUNK_MAX` bytes (20_memory.md R40). Also which operations the environment causes
(00_scope.md R8). -/

namespace Sys2Proof

/-- The checks on an operation's operands. A `DISP_FAULT` frame starts with `E`, a `DISP_VALUE` frame does not, and neither is a
distinguished frame (R66); a chunk fits one poll (R40, U13). Every other operand value is legal (R69, R70). -/
def Instr.wellFormed (c : Params) : Instr → Bool
  | .dispNoheight => true
  | .dispReset => true
  | .dispFault p0 d1 d2 ck =>
    Machine.startsWithE c.digit p0 && decide (Payload.mk p0 d1 d2 ck ≠ Machine.zeroPayload) &&
      decide (Payload.mk p0 d1 d2 ck ≠ Machine.resetPayload)
  | .dispValue p0 p1 p2 ck =>
    !Machine.startsWithE c.digit p0 && decide (Payload.mk p0 p1 p2 ck ≠ Machine.zeroPayload) &&
      decide (Payload.mk p0 p1 p2 ck ≠ Machine.resetPayload)
  | .button _ _ _ _ => true
  | .cmdSlot1 => true
  | .cmdSlot2 => true
  | .cmdSlot3 => true
  | .cmdSlot4 => true
  | .keepalive => true
  | .rxH chunk => decide (chunk.length ≤ c.chunkMax)
  | .rxC chunk => decide (chunk.length ≤ c.chunkMax)
  | .rxerrH => true
  | .rxerrC => true
  | .tick => true
  | .moveTo _ => true
  | .setRemoteEnabled _ => true
  | .currentPosition => true
  | .cancel => true
  | .grantCmd => true
  | .grantKa => true
  | .reset => true
  | .checksum _ _ _ => true
  | .digitByte _ => true
  | .decodeButton _ _ _ _ => true
  | .decodeDisplay _ _ _ _ => true
  | .encodeCommand _ => true
  | .encodeKeepalive => true
  | .signalActivity => true
  | .wdtFeed => true

/-- The input events of R8, with the frame classes (the arrival of one frame) and power-up (R210): what the environment, the
host and the scheduler can cause. The other rows are internal transitions and pure functions, which the block itself
performs inside these (log 8). -/
def Instr.isInputEvent : Instr → Bool
  | .dispNoheight => true
  | .dispReset => true
  | .dispFault _ _ _ _ => true
  | .dispValue _ _ _ _ => true
  | .button _ _ _ _ => true
  | .cmdSlot1 => false
  | .cmdSlot2 => false
  | .cmdSlot3 => false
  | .cmdSlot4 => false
  | .keepalive => false
  | .rxH _ => true
  | .rxC _ => true
  | .rxerrH => true
  | .rxerrC => true
  | .tick => true
  | .moveTo _ => true
  | .setRemoteEnabled _ => true
  | .currentPosition => true
  | .cancel => true
  | .grantCmd => true
  | .grantKa => true
  | .reset => true
  | .checksum _ _ _ => false
  | .digitByte _ => false
  | .decodeButton _ _ _ _ => false
  | .decodeDisplay _ _ _ _ => false
  | .encodeCommand _ => false
  | .encodeKeepalive => false
  | .signalActivity => false
  | .wdtFeed => false

end Sys2Proof
end

