-- ==== Sys2Proof/Decode.lean ====
section
/-! DEFINITION. From items to operations and back. Frames by the class table of 30_encoding.md R66 and the generated frames of R67;
events in the stimulus notation of R71; the rows that have no bit pattern and no line in R71 are written in the same
style under their mnemonics (DESIGN CHOICE, log 4). Total on any bytes; a refusal has a name. -/

namespace Sys2Proof

/-! ### Text -/

/-- ASCII bytes of a word. -/
def asc (w : String) : List Byte := w.toList.map fun ch => BitVec.ofNat 8 ch.toNat

/-- The hexadecimal digit of a number below 16. -/
def hexDigit (n : Nat) : Byte := if n < 10 then BitVec.ofNat 8 (0x30 + n) else BitVec.ofNat 8 (0x37 + n)

/-- A byte as two hexadecimal digits without `0x` (R71). -/
def hexByte (b : Byte) : List Byte := [hexDigit (b.toNat / 16), hexDigit (b.toNat % 16)]

/-- The value of a hexadecimal digit, either case (log 14). -/
def hexVal (ch : Byte) : Option Nat :=
  let n := ch.toNat
  if 0x30 ≤ n ∧ n ≤ 0x39 then some (n - 0x30)
  else if 0x41 ≤ n ∧ n ≤ 0x46 then some (n - 0x37)
  else if 0x61 ≤ n ∧ n ≤ 0x66 then some (n - 0x57)
  else none

/-- A word read as a byte: exactly two hexadecimal digits (R71). -/
def parseHexByte : List Byte → Option Byte
  | [a, b] =>
    match hexVal a, hexVal b with
    | some x, some y => some (BitVec.ofNat 8 (16 * x + y))
    | _, _ => none
  | _ => none

/-- Words read as bytes. -/
def parseBytes : List (List Byte) → Option (List Byte)
  | [] => some []
  | w :: rest =>
    match parseHexByte w, parseBytes rest with
    | some b, some bs => some (b :: bs)
    | _, _ => none

/-- The value of a decimal digit. -/
def decVal (ch : Byte) : Option Nat :=
  if 0x30 ≤ ch.toNat ∧ ch.toNat ≤ 0x39 then some (ch.toNat - 0x30) else none

/-- Decimal digits read from the left onto `acc`. -/
def parseDecFrom (acc : Nat) : List Byte → Option Nat
  | [] => some acc
  | ch :: rest =>
    match decVal ch with
    | some d => parseDecFrom (10 * acc + d) rest
    | none => none

/-- A word read as a decimal number. -/
def parseDec : List Byte → Option Nat
  | [] => none
  | ch :: rest => parseDecFrom 0 (ch :: rest)

/-- A word read as a decimal number 0..255 (R71, `move s`). -/
def parseDecByte (w : List Byte) : Option Byte :=
  match parseDec w with
  | some n => if n < 256 then some (BitVec.ofNat 8 n) else none
  | none => none

/-- The decimal digits of `n`, for a `fuel` above `n`. -/
def decDigits : Nat → Nat → List Byte
  | 0, _ => []
  | fuel + 1, n => if n < 10 then [hexDigit n] else decDigits fuel (n / 10) ++ [hexDigit (n % 10)]

/-- A number in decimal without leading zeros. -/
def decWord (n : Nat) : List Byte := decDigits (n + 1) n

/-- Everything after `;` is a comment (R71). -/
def stripComment : List Byte → List Byte
  | [] => []
  | b :: rest => if b = 0x3B#8 then [] else b :: stripComment rest

/-- The words of a line, `cur` being the part of a word read so far; words stand apart by spaces. -/
def wordsFrom (cur : List Byte) : List Byte → List (List Byte)
  | [] => if cur.isEmpty then [] else [cur]
  | b :: rest =>
    if b = 0x20#8 then (if cur.isEmpty then wordsFrom [] rest else cur :: wordsFrom [] rest)
    else wordsFrom (cur ++ [b]) rest

/-- The words of a line without its comment. -/
def lineWords (line : List Byte) : List (List Byte) := wordsFrom [] (stripComment line)

/-- Words joined by single spaces. -/
def joinWords : List (List Byte) → List Byte
  | [] => []
  | [w] => w
  | w :: rest => w ++ 0x20#8 :: joinWords rest

/-! ### Decoding -/

/-- The class of a controller frame: the rows of R66 in the order of their priority. -/
def decodeController (d : DigitTable) (q : Payload) : Instr :=
  if q = Machine.zeroPayload then .dispNoheight
  else if q = Machine.resetPayload then .dispReset
  else if Machine.startsWithE d q.q0 then .dispFault q.q0 q.q1 q.q2 q.q3
  else .dispValue q.q0 q.q1 q.q2 q.q3

/-- The generated frames (R67). -/
def decodeGenerated (f : Frame) : Except DecodeError Instr :=
  if f = ⟨0xA5#8, 0x00#8, 0x02#8, 0xFD#8, 0xFF#8⟩ then .ok .cmdSlot1
  else if f = ⟨0xA5#8, 0x00#8, 0x04#8, 0xFB#8, 0xFF#8⟩ then .ok .cmdSlot2
  else if f = ⟨0xA5#8, 0x00#8, 0x08#8, 0xF7#8, 0xFF#8⟩ then .ok .cmdSlot3
  else if f = ⟨0xA5#8, 0x00#8, 0x10#8, 0xEF#8, 0xFF#8⟩ then .ok .cmdSlot4
  else if f = ⟨0xA5#8, 0x00#8, 0x60#8, 0x9F#8, 0xFF#8⟩ then .ok .keepalive
  else .error .notGenerated

/-- An operation whose line has no operands. -/
def noOperands (args : List (List Byte)) (i : Instr) : Except DecodeError Instr :=
  if args.isEmpty then .ok i else .error .badOperands

/-- An operation whose line has one decimal operand, read by `read`. -/
def oneNumber {α : Type} (read : List Byte → Option α) (args : List (List Byte)) (f : α → Instr) : Except DecodeError Instr :=
  match args with
  | [w] =>
    match read w with
    | some n => .ok (f n)
    | none => .error .badOperands
  | _ => .error .badOperands

/-- An operation whose line has byte operands, as many as `f` accepts. -/
def byteOperands (args : List (List Byte)) (f : List Byte → Option Instr) : Except DecodeError Instr :=
  match parseBytes args with
  | some bs =>
    match f bs with
    | some i => .ok i
    | none => .error .badOperands
  | none => .error .badOperands

/-- `remote 0`, `remote 1` (R71). -/
def remoteOperand (args : List (List Byte)) : Except DecodeError Instr :=
  if args = [asc "0"] then .ok (.setRemoteEnabled false)
  else if args = [asc "1"] then .ok (.setRemoteEnabled true)
  else .error .badOperands

/-- `grant cmd`, `grant ka` (R71). -/
def grantOperand (args : List (List Byte)) : Except DecodeError Instr :=
  if args = [asc "cmd"] then .ok .grantCmd
  else if args = [asc "ka"] then .ok .grantKa
  else .error .badOperands

/-- The three bytes of `CHECKSUM`. -/
def threeBytes (f : Byte → Byte → Byte → Instr) : List Byte → Option Instr
  | [a, b, c] => some (f a b c)
  | _ => none

/-- The four bytes of a decoder's argument (R112). -/
def fourBytes (f : Byte → Byte → Byte → Byte → Instr) : List Byte → Option Instr
  | [a, b, c, e] => some (f a b c e)
  | _ => none

/-- A line by its first word: the lines of R71, then the rows R71 has no line for (log 4). -/
def decodeWord (kw : List Byte) (args : List (List Byte)) : Except DecodeError Instr :=
  if kw = asc "rxh" then byteOperands args fun bs => some (.rxH bs)
  else if kw = asc "rxc" then byteOperands args fun bs => some (.rxC bs)
  else if kw = asc "rxerrh" then noOperands args .rxerrH
  else if kw = asc "rxerrc" then noOperands args .rxerrC
  else if kw = asc "tick" then noOperands args .tick
  else if kw = asc "move" then oneNumber parseDecByte args .moveTo
  else if kw = asc "remote" then remoteOperand args
  else if kw = asc "pos" then noOperands args .currentPosition
  else if kw = asc "cancel" then noOperands args .cancel
  else if kw = asc "grant" then grantOperand args
  else if kw = asc "RESET" then noOperands args .reset
  else if kw = asc "CHECKSUM" then byteOperands args (threeBytes .checksum)
  else if kw = asc "DECODE_BUTTON" then byteOperands args (fourBytes .decodeButton)
  else if kw = asc "DECODE_DISPLAY" then byteOperands args (fourBytes .decodeDisplay)
  else if kw = asc "ENCODE_COMMAND" then oneNumber parseDec args .encodeCommand
  else if kw = asc "ENCODE_KEEPALIVE" then noOperands args .encodeKeepalive
  else if kw = asc "SIGNAL_ACTIVITY" then noOperands args .signalActivity
  else if kw = asc "WDT_FEED" then noOperands args .wdtFeed
  else .error .unknownWord

/-- A line of text. -/
def decodeLine (line : List Byte) : Except DecodeError Instr :=
  match lineWords line with
  | [] => .error .emptyLine
  | kw :: args => decodeWord kw args

/-- The operation an item encodes, under the digit table `d` (the class `DISP_FAULT` depends on it, R66). -/
def decode (d : DigitTable) (it : Item) : Except DecodeError Instr :=
  match it.port with
  | .handset =>
    match it.bytes with
    | [h, a, b, c, k] => if h = Config.startH then .ok (.button a b c k) else .error .badHeader
    | _ => .error .notFiveBytes
  | .controller =>
    match it.bytes with
    | [h, a, b, c, k] => if h = Config.startC then .ok (decodeController d ⟨a, b, c, k⟩) else .error .badHeader
    | _ => .error .notFiveBytes
  | .bus =>
    match it.bytes with
    | [h, a, b, c, k] => decodeGenerated ⟨h, a, b, c, k⟩
    | _ => .error .notFiveBytes
  | .digit =>
    match it.bytes with
    | [b] => .ok (.digitByte b)
    | _ => .error .notOneByte
  | .script => decodeLine it.bytes

/-! ### Encoding -/

/-- A line of text as an item. -/
def scriptItem (ws : List (List Byte)) : Item := ⟨.script, joinWords ws⟩

/-- The item that stands for an operation. -/
def encode : Instr → Item
  | .dispNoheight => ⟨.controller, [0x5A#8, 0x00#8, 0x00#8, 0x00#8, 0x00#8]⟩
  | .dispReset => ⟨.controller, [0x5A#8, 0x77#8, 0x6D#8, 0x78#8, 0x5C#8]⟩
  | .dispFault p0 d1 d2 ck => ⟨.controller, [0x5A#8, p0, d1, d2, ck]⟩
  | .dispValue p0 p1 p2 ck => ⟨.controller, [0x5A#8, p0, p1, p2, ck]⟩
  | .button p0 mask p2 ck => ⟨.handset, [0xA5#8, p0, mask, p2, ck]⟩
  | .cmdSlot1 => ⟨.bus, [0xA5#8, 0x00#8, 0x02#8, 0xFD#8, 0xFF#8]⟩
  | .cmdSlot2 => ⟨.bus, [0xA5#8, 0x00#8, 0x04#8, 0xFB#8, 0xFF#8]⟩
  | .cmdSlot3 => ⟨.bus, [0xA5#8, 0x00#8, 0x08#8, 0xF7#8, 0xFF#8]⟩
  | .cmdSlot4 => ⟨.bus, [0xA5#8, 0x00#8, 0x10#8, 0xEF#8, 0xFF#8]⟩
  | .keepalive => ⟨.bus, [0xA5#8, 0x00#8, 0x60#8, 0x9F#8, 0xFF#8]⟩
  | .rxH chunk => scriptItem (asc "rxh" :: chunk.map hexByte)
  | .rxC chunk => scriptItem (asc "rxc" :: chunk.map hexByte)
  | .rxerrH => scriptItem [asc "rxerrh"]
  | .rxerrC => scriptItem [asc "rxerrc"]
  | .tick => scriptItem [asc "tick"]
  | .moveTo slot => scriptItem [asc "move", decWord slot.toNat]
  | .setRemoteEnabled b => scriptItem [asc "remote", if b then asc "1" else asc "0"]
  | .currentPosition => scriptItem [asc "pos"]
  | .cancel => scriptItem [asc "cancel"]
  | .grantCmd => scriptItem [asc "grant", asc "cmd"]
  | .grantKa => scriptItem [asc "grant", asc "ka"]
  | .reset => scriptItem [asc "RESET"]
  | .checksum a b c => scriptItem [asc "CHECKSUM", hexByte a, hexByte b, hexByte c]
  | .digitByte b => ⟨.digit, [b]⟩
  | .decodeButton q0 q1 q2 q3 => scriptItem [asc "DECODE_BUTTON", hexByte q0, hexByte q1, hexByte q2, hexByte q3]
  | .decodeDisplay q0 q1 q2 q3 => scriptItem [asc "DECODE_DISPLAY", hexByte q0, hexByte q1, hexByte q2, hexByte q3]
  | .encodeCommand slot => scriptItem [asc "ENCODE_COMMAND", decWord slot]
  | .encodeKeepalive => scriptItem [asc "ENCODE_KEEPALIVE"]
  | .signalActivity => scriptItem [asc "SIGNAL_ACTIVITY"]
  | .wdtFeed => scriptItem [asc "WDT_FEED"]

/-! ### Table words -/

/-- The bytes of a 40-bit table word, `f[0]` in bits 39:32 (R9, R66, D38). -/
def frameBytes (w : Nat) : List Byte :=
  [BitVec.ofNat 8 (w / 2 ^ 32), BitVec.ofNat 8 (w / 2 ^ 24), BitVec.ofNat 8 (w / 2 ^ 16), BitVec.ofNat 8 (w / 2 ^ 8),
   BitVec.ofNat 8 w]

/-- Where the five bytes of a bare table word stand: the five generated frames on the bus, other `A5` frames on the handset
line, the rest on the controller line. DESIGN CHOICE, log 5: a bare word does not say its line. -/
def frameItem (bs : List Byte) : Item :=
  if (encode .cmdSlot1).bytes = bs ∨ (encode .cmdSlot2).bytes = bs ∨ (encode .cmdSlot3).bytes = bs ∨
      (encode .cmdSlot4).bytes = bs ∨ (encode .keepalive).bytes = bs then ⟨.bus, bs⟩
  else if bs.head? = some Config.startH then ⟨.handset, bs⟩
  else ⟨.controller, bs⟩

/-- The item of a table word: 8 bits are a digit byte (row `DIGIT_BYTE`), any other width a frame with zeros above. -/
def wordItem (nbits w : Nat) : Item :=
  if nbits = 8 then ⟨.digit, [BitVec.ofNat 8 w]⟩ else frameItem (frameBytes (w % 2 ^ nbits))

/-- The operation the decoder reads from a table word, under the default digit table. -/
def decodeTableWord (nbits w : Nat) : Option Instr :=
  match decode (Machine.defaultDigits none) (wordItem nbits w) with
  | .ok i => some i
  | .error _ => none

end Sys2Proof
end

