-- ==== Sys2Proof/Machine/State.lean ====
section
/-! DEFINITION. The state of the block: the tuple of 10_state.md R10, the read-only parameters, and the model's own two lists
(operations still to come, outputs so far). Also the reasons a step can stop, and the state after reset
(70_reset_and_hazards.md R211). -/

namespace Sys2Proof.Machine

/-- `run_X` (R17). -/
inductive RunState where
  | running
  | stopped
deriving DecidableEq, Repr

/-- `cmd_state` (R18). -/
inductive CmdState where
  | idle
  | waitLock
  | burst
deriving DecidableEq, Repr

/-- `ka_state` (R19, R160). -/
inductive KaState where
  | waiting
  | firingWait
  | firingBurst
  | stopped
deriving DecidableEq, Repr

/-- `bus_owner` (R20). -/
inductive BusOwner where
  | free
  | cmd
  | ka
deriving DecidableEq, Repr

/-- `mode` (R190). -/
inductive Mode where
  | run
  | diag
deriving DecidableEq, Repr

/-- The down-counters (R195). -/
inductive Counter where
  | wdtCnt
  | kaTimer
  | cmdSp
  | cmdN
  | kaSp
  | kaN
deriving DecidableEq, Repr

/-- Why the machine stops with a fault. -/
inductive Fault where
  /-- Raised by `TICK` (and by the generated-frame writes) where a rule decrements a down-counter that is 0, which R214 says the
  spec does not define (U12). It cannot happen in a state that keeps the invariant. Safe: the model stops. Log 10. -/
  | counterUnderflow (c : Counter)
deriving DecidableEq, Repr

/-- Why the machine refuses. -/
inductive Refusal where
  /-- Raised by `exec` for an operation that has no meaning yet. Safe. No arm does so. -/
  | notModelled (mnemonic : String)
  /-- Raised by `RX_H` and `RX_C` for a chunk longer than `CHUNK_MAX`, which cannot arise and is refused (U13). Safe. Log 11. -/
  | chunkTooLong
  /-- Raised by `step` for a pending item that encodes no operation. Safe: nothing in the hardware reads items. Log 4. -/
  | undecodable (e : DecodeError)
deriving DecidableEq, Repr

/-- The state. The fields from `bufH` to `mode` are the spec's (R10); `cfg` holds the parameters of R7, which no operation
writes (R25); `stim` and `trace` are the model's own (log 1). -/
structure State where
  /-- The parameters (R7). Model's own placing, log 2. -/
  cfg : Params
  /-- `buf_H` (R11). -/
  bufH : List Byte
  /-- `buf_C` (R11). -/
  bufC : List Byte
  /-- `pos` (R12, R13). -/
  pos : Position
  /-- `prev_keys` (R14). -/
  prevKeys : KeySet
  /-- `run_H` (R17). -/
  runH : RunState
  /-- `run_C` (R17). -/
  runC : RunState
  /-- `cmd_state` (R18). -/
  cmdState : CmdState
  /-- `cmd_slot` (R18). -/
  cmdSlot : Slot
  /-- `cmd_n`: writes still to make (R18). -/
  cmdN : Nat
  /-- `cmd_sp`: ticks to the next write (R18). -/
  cmdSp : Nat
  /-- `ka_state` (R19). -/
  kaState : KaState
  /-- `ka_timer` (R26). -/
  kaTimer : Nat
  /-- `ka_pending` (R23). -/
  kaPending : Bool
  /-- `ka_n` (R19). -/
  kaN : Nat
  /-- `ka_sp` (R19). -/
  kaSp : Nat
  /-- `bus_owner` (R20). -/
  busOwner : BusOwner
  /-- `act` (R21). -/
  act : Bool
  /-- `remote_en` (R24). -/
  remoteEn : Bool
  /-- `cancel` (R22). -/
  cancel : Bool
  /-- `wdt_cnt` (R27). -/
  wdtCnt : Nat
  /-- `mode` (R190). -/
  mode : Mode
  /-- Operations the environment, host and scheduler have still to present, oldest first. Model's own, log 1. -/
  stim : List Item
  /-- What the block has emitted and returned, oldest first. Model's own, log 1. -/
  trace : List Output
deriving DecidableEq, Repr

/-- The reset state under parameters `c` (R211). `cmd_slot`, `cmd_n`, `cmd_sp`, `ka_n`, `ka_sp` are unspecified there (R215);
the values here are DESIGN CHOICE, log 3, unsafe for a claim that leans on one of them. -/
def State.resetOf (c : Params) : State where
  cfg := c
  bufH := []
  bufC := []
  pos := ⟨0, 0⟩
  prevKeys := 0#7
  runH := .running
  runC := .running
  cmdState := .idle
  cmdSlot := .s1
  cmdN := 0
  cmdSp := 0
  kaState := .waiting
  kaTimer := c.kaInterval
  kaPending := false
  kaN := 0
  kaSp := 0
  busOwner := .free
  act := false
  remoteEn := c.remoteEnReset
  cancel := false
  wdtCnt := c.wdtTimeout
  mode := if c.initOk then .run else .diag
  stim := []
  trace := []

/-- The machine right after reset, with the test parameter set T (DESIGN CHOICE, log 2) and nothing pending (log 1). -/
def State.reset : State := State.resetOf paramsT

end Sys2Proof.Machine
end

