-- ==== Sys2Proof/Machine/Ops.lean ====
section
/-! DEFINITION. The shared operations: emitting, diagnostics (60_exceptions.md R191), watchdog feed and expiry, the activity
signal, the frame reader's poll, the two pumps, grants, bursts, the parts of `TICK`, cancellation and `RESET()`. -/

namespace Sys2Proof.Machine

/-- The three outcomes of an operation of this machine. -/
abbrev Out := Host.Outcome State Fault Refusal

/-- Go on with `f` where `o` is a next state; a stop stays a stop. -/
def andThen (o : Out) (f : State → Out) : Out :=
  match o with
  | .next s => f s
  | .fault r => .fault r
  | .refused r => .refused r

/-! ### Outputs, errors -/

/-- `emit`: something leaves the block (R9). -/
def emit (o : Output) (s : State) : State := { s with trace := s.trace ++ [o] }

/-- Raising an error, whole: the diagnostic is handed to the sink and the detecting operation goes on. Nothing is saved, masked
or redirected (R180, R191); there is no return (R192). -/
def raiseDiag (d : Diag) (s : State) : State := emit (.diag d) s

/-- `return v` to the host (R9). -/
def giveBack (r : Result) (s : State) : State := emit (.ret r) s

/-! ### Per-line state -/

/-- `buf_X`. -/
def bufOf (x : Line) (s : State) : List Byte :=
  match x with
  | .H => s.bufH
  | .C => s.bufC

/-- `buf_X <- b`. -/
def setBuf (x : Line) (b : List Byte) (s : State) : State :=
  match x with
  | .H => { s with bufH := b }
  | .C => { s with bufC := b }

/-- `run_X`. -/
def runOf (x : Line) (s : State) : RunState :=
  match x with
  | .H => s.runH
  | .C => s.runC

/-- `run_X <- r`. -/
def setRun (x : Line) (r : RunState) (s : State) : State :=
  match x with
  | .H => { s with runH := r }
  | .C => { s with runC := r }

/-! ### Reset, watchdog, activity -/

/-- `RESET()`: every variable takes its reset value, `mode` from `INIT_OK` (R211). The parameters are constant (R25) and what has
been emitted or is still to come lies outside the block. -/
def resetBlock (s : State) : State := { State.resetOf s.cfg with stim := s.stim, trace := s.trace }

/-- `feed()` (R169). -/
def feed (s : State) : State := { s with wdtCnt := s.cfg.wdtTimeout }

/-- `WDT_EXPIRE`: `HardReset` is emitted and everything is reset; no diagnostic precedes it (R170). -/
def wdtExpire (s : State) : State := resetBlock (emit .hardReset s)

/-- `signal_activity()`: taken at once in `Waiting`, otherwise left pending, a duplicate being lost (R165). -/
def signalActivity (s : State) : State :=
  match s.kaState with
  | .waiting => { s with kaTimer := s.cfg.kaInterval }
  | .firingWait => { s with kaPending := true }
  | .firingBurst => { s with kaPending := true }
  | .stopped => { s with kaPending := true }

/-! ### The pumps -/

/-- Pump H's report of a checksum mismatch (R132). -/
def reportMismatchH (f : Frame) (s : State) : State :=
  if ckBad f.payload then raiseDiag (.checksumMismatch .H f) s else s

/-- Pump H's key-transition report (R132). -/
def reportKeys (r : ButtonState) (s : State) : State :=
  if r.keys = s.prevKeys then s else { raiseDiag (.keysChanged r.keys r.isNone) s with prevKeys := r.keys }

/-- Activity from the handset: at least one key is down (R133). -/
def signalKeys (r : ButtonState) (s : State) : State := if r.isNone then s else signalActivity s

/-- Forward with try-acquire, or drop in silence (R134, R135). -/
def forwardH (f : Frame) (s : State) : State :=
  match s.busOwner with
  | .free => emit (.txCtrl f) s
  | .cmd => s
  | .ka => s

/-- Pump H on an `Ok` frame: feed, decode, report, signal, forward, in this order (R131 to R135, R189). -/
def pumpHOk (f : Frame) (s : State) : State :=
  forwardH f (signalKeys (decodeButton f.payload) (reportKeys (decodeButton f.payload) (reportMismatchH f (feed s))))

/-- What pump C does with a decode result (R137, R139). -/
def actOnDisplay (f : Frame) (r : DisplayResult) (s : State) : State :=
  match r with
  | .noHeight => s
  | .reset => raiseDiag .displayReset s
  | .fault code bad => raiseDiag (.controllerFault code bad) s
  | .formatError why => raiseDiag (.formatError .C why f) s
  | .value m e bad => if bad then raiseDiag (.checksumMismatch .C f) s else { s with pos := ⟨m, e⟩ }

/-- Pass-through to the handset line (R138). -/
def passThrough (f : Frame) (s : State) : State := if s.cfg.passThrough then emit (.txHand f) s else s

/-- Pump C on an `Ok` frame: feed, decode and act, pass through (R136 to R139, R189). -/
def pumpCOk (f : Frame) (s : State) : State :=
  passThrough f (actOnDisplay f (decodeDisplay s.cfg.digit f.payload) (feed s))

/-- Pump X on an outcome of reader X. Outcomes other than `Ok` are only reported (R130, R136). -/
def pump (x : Line) (o : ReaderOutcome) (s : State) : State :=
  match o with
  | .canceled => raiseDiag (.canceled x) s
  | .readError b => raiseDiag (.readError x b) s
  | .short b => raiseDiag (.framingShort x b) s
  | .long f good => raiseDiag (.framingLong x f good) s
  | .ok f =>
    match x with
    | .H => pumpHOk f s
    | .C => pumpCOk f s

/-! ### The frame reader -/

/-- The cancelled poll: nothing is read, the buffer is emptied, the loop stops (R81). -/
def cancelPoll (x : Line) (s : State) : State := pump x .canceled (setRun x .stopped (setBuf x [] s))

/-- A poll's chunk taken in, then the length test made once (R82 to R91). -/
def readChunk (x : Line) (chunk : List Byte) (s : State) : State :=
  let b := takeIn x.start (bufOf x s) chunk
  if b.length < Config.length then setBuf x b s
  else pump x (classify (candidate x.start b)) (setBuf x [] s)

/-- Whether loop X takes part at all: mode `Run` (R190) and not stopped (R17, R81). -/
def loopRuns (x : Line) (s : State) : Bool := decide (s.mode = .run) && decide (runOf x s = .running)

/-- One poll, `RX_X(chunk)`: the order of the tests is that of R189 (a). -/
def pollLine (x : Line) (chunk : List Byte) (s : State) : State :=
  if loopRuns x s then (if s.cancel then cancelPoll x s else readChunk x chunk s) else s

/-- `RXERR_X` (R90). -/
def errorLine (x : Line) (s : State) : State :=
  if loopRuns x s then
    (if s.cancel then cancelPoll x s else pump x (.readError (bufOf x s)) (setBuf x [] s))
  else s

/-- A poll as the environment may cause it: a chunk has at most `CHUNK_MAX` bytes (R40, U13, log 11). -/
def rxEvent (x : Line) (chunk : List Byte) (s : State) : Out :=
  if chunk.length ≤ s.cfg.chunkMax then .next (pollLine x chunk s) else .refused .chunkTooLong

/-- Byte-serial delivery: one poll for each byte (R92, `bytesh` and `bytesc` of R71). -/
def serialPolls (x : Line) : List Byte → State → Out
  | [], s => .next s
  | b :: rest, s => andThen (rxEvent x [b] s) (serialPolls x rest)

/-- A frame arrives on line X: in one poll (`frameh`, `framec`, `press` of R71) where a poll can hold it, otherwise byte by
byte. DESIGN CHOICE, log 6. -/
def frameArrives (x : Line) (f : Frame) (s : State) : Out :=
  if Config.length ≤ s.cfg.chunkMax then rxEvent x f.bytes s else serialPolls x f.bytes s

/-! ### Bursts -/

/-- A down-counter less one; going below 0 is not defined (R214, log 10). -/
def countDown (c : Counter) (n : Nat) (f : Nat → Out) : Out :=
  match n with
  | 0 => .fault (.counterUnderflow c)
  | k + 1 => f k

/-- `GRANT(Cmd)` and the start of the command burst (R141, R144). -/
def startCmdBurst (s : State) : State :=
  { emit (.txCtrl (slotFrame s.cmdSlot)) (emit (.act true) s) with
    busOwner := .cmd, cmdState := .burst, act := true, cmdN := Config.burst - 1, cmdSp := s.cfg.spacing }

/-- `BURST_END` of the command burst (R146). -/
def endCmdBurst (s : State) : State :=
  giveBack .ok (signalActivity { emit (.act false) s with act := false, busOwner := .free, cmdState := .idle })

/-- `BURST_WRITE` of the command burst: one more write, then the next spacing or the end (R145, R146). -/
def writeCmdBurst (s : State) : Out :=
  countDown .cmdN s.cmdN fun n =>
    let t := { emit (.txCtrl (slotFrame s.cmdSlot)) s with cmdN := n }
    .next (if n = 0 then endCmdBurst t else { t with cmdSp := s.cfg.spacing })

/-- `GRANT(Ka)` and the start of the keep-alive burst (R141, R163). -/
def startKaBurst (s : State) : State :=
  { emit (.txCtrl encodeKeepalive) (emit (.act true) s) with
    busOwner := .ka, kaState := .firingBurst, act := true, kaN := Config.burst - 1, kaSp := s.cfg.spacing }

/-- `BURST_END` of the keep-alive burst; a pending restart is taken here (R164). -/
def endKaBurst (s : State) : State :=
  { emit (.act false) s with
    act := false, busOwner := .free, kaState := .waiting, kaTimer := s.cfg.kaInterval, kaPending := false }

/-- `BURST_WRITE` of the keep-alive burst (R163, R164). -/
def writeKaBurst (s : State) : Out :=
  countDown .kaN s.kaN fun n =>
    let t := { emit (.txCtrl encodeKeepalive) s with kaN := n }
    .next (if n = 0 then endKaBurst t else { t with kaSp := s.cfg.spacing })

/-- `GRANT(Cmd)` is enabled iff the bus is free and the sequencer waits; never in `Diag` (R141, R190). -/
def cmdGrantable (s : State) : Bool :=
  decide (s.mode = .run) && decide (s.busOwner = .free) && decide (s.cmdState = .waitLock)

/-- `GRANT(Ka)` is enabled iff the bus is free and the task waits; never in `Diag` (R141, R190). -/
def kaGrantable (s : State) : Bool :=
  decide (s.mode = .run) && decide (s.busOwner = .free) && decide (s.kaState = .firingWait)

/-- A write of the command frame of preset `sl` by the holder of the bus; where the sequencer is not in the burst of that
preset the write is not enabled and nothing happens. DESIGN CHOICE, log 7. -/
def cmdFrameWrite (sl : Slot) (s : State) : Out :=
  if s.mode = .run ∧ s.cmdState = .burst ∧ s.cmdSlot = sl then writeCmdBurst s else .next s

/-- The same for the keep-alive frame. DESIGN CHOICE, log 7. -/
def kaFrameWrite (s : State) : Out :=
  if s.mode = .run ∧ s.kaState = .firingBurst then writeKaBurst s else .next s

/-! ### The parts of `TICK` -/

/-- `KA_INTERVAL_TICK`, with `KA_FIRE` (R161, R162). -/
def kaIntervalTick (s : State) : Out :=
  match s.kaState with
  | .waiting =>
    countDown .kaTimer s.kaTimer fun n =>
      .next { s with kaTimer := n, kaState := if n = 0 then .firingWait else .waiting }
  | .firingWait => .next s
  | .firingBurst => .next s
  | .stopped => .next s

/-- `CMD_TICK` (R145, R146). -/
def cmdTick (s : State) : Out :=
  match s.cmdState with
  | .burst =>
    countDown .cmdSp s.cmdSp fun n =>
      if n = 0 then writeCmdBurst { s with cmdSp := 0 } else .next { s with cmdSp := n }
  | .idle => .next s
  | .waitLock => .next s

/-- `KA_BURST_TICK` (R163, R164). -/
def kaBurstTick (s : State) : Out :=
  match s.kaState with
  | .firingBurst =>
    countDown .kaSp s.kaSp fun n =>
      if n = 0 then writeKaBurst { s with kaSp := 0 } else .next { s with kaSp := n }
  | .waiting => .next s
  | .firingWait => .next s
  | .stopped => .next s

/-- `TICK` in mode `Run`: watchdog, keep-alive interval, command burst, keep-alive burst, each seeing what the earlier left; an
expiry ends it (R168, R170, R171). -/
def tickRun (s : State) : Out :=
  countDown .wdtCnt s.wdtCnt fun n =>
    if n = 0 then .next (wdtExpire { s with wdtCnt := 0 })
    else andThen (andThen (kaIntervalTick { s with wdtCnt := n }) cmdTick) kaBurstTick

/-- `TICK` in mode `Diag` (R172). -/
def tickDiag (s : State) : State := raiseDiag .initFail (feed s)

/-! ### Cancellation -/

/-- What `CANCEL` does to a keep-alive burst in progress: the bus is released and the line lowered (R167). -/
def cutKaBurst (s : State) : State :=
  match s.kaState with
  | .firingBurst => { emit (.act false) s with busOwner := .free, act := false }
  | .waiting => s
  | .firingWait => s
  | .stopped => s

/-- `CANCEL` in mode `Run` (R167). -/
def cancelRun (s : State) : State := { cutKaBurst s with cancel := true, kaState := .stopped }

end Sys2Proof.Machine
end

