-- ==== Sys2Proof/Machine/FrameClasses.lean ====
section
/-! DEFINITION. The frame classes of 30_encoding.md R66: a frame of the class arrives on its line, is read by the line's reader
(40_frame_reader.md) and handled by its pump (43_bridge_arbiter.md R131 to R139). Log 6. -/

namespace Sys2Proof.Machine

/-- A `DISP_NOHEIGHT` frame arrives (R105, R139). -/
def execDispNoheight (s : State) : Out := frameArrives .C ⟨Config.startC, 0x00#8, 0x00#8, 0x00#8, 0x00#8⟩ s

/-- A `DISP_RESET` frame arrives (R106, R139). -/
def execDispReset (s : State) : Out := frameArrives .C ⟨Config.startC, 0x77#8, 0x6D#8, 0x78#8, 0x5C#8⟩ s

/-- A `DISP_FAULT` frame arrives (R107, R139). -/
def execDispFault (p0 d1 d2 ck : Byte) (s : State) : Out := frameArrives .C ⟨Config.startC, p0, d1, d2, ck⟩ s

/-- A `DISP_VALUE` frame arrives (R108, R137). -/
def execDispValue (p0 p1 p2 ck : Byte) (s : State) : Out := frameArrives .C ⟨Config.startC, p0, p1, p2, ck⟩ s

/-- A `BUTTON` frame arrives (R103, R131 to R135). -/
def execButton (p0 mask p2 ck : Byte) (s : State) : Out := frameArrives .H ⟨Config.startH, p0, mask, p2, ck⟩ s

end Sys2Proof.Machine
end

