-- ==== Sys2Proof/Machine/GeneratedFrames.lean ====
section
/-! DEFINITION. The five frames the block generates (30_encoding.md R67): each is one `BURST_WRITE` by the writer that holds the
controller bus (20_memory.md R42, 43_bridge_arbiter.md R145, 44_keepalive_watchdog.md R163). Log 7. -/

namespace Sys2Proof.Machine

/-- The write of `CMD_SLOT1` (R120, R145). -/
def execCmdSlot1 (s : State) : Out := cmdFrameWrite .s1 s

/-- The write of `CMD_SLOT2` (R120, R145). -/
def execCmdSlot2 (s : State) : Out := cmdFrameWrite .s2 s

/-- The write of `CMD_SLOT3` (R120, R145). -/
def execCmdSlot3 (s : State) : Out := cmdFrameWrite .s3 s

/-- The write of `CMD_SLOT4` (R120, R145). -/
def execCmdSlot4 (s : State) : Out := cmdFrameWrite .s4 s

/-- The write of `KEEPALIVE` (R122, R163). -/
def execKeepalive (s : State) : Out := kaFrameWrite s

end Sys2Proof.Machine
end

