-- ==== Sys2Proof/Machine/PortEvents.lean ====
section
/-! DEFINITION. The input events and `RESET` (00_scope.md R8): polls, read errors, the tick, the host's operations, cancellation, grants,
reset. What each does in mode `Diag` is 60_exceptions.md R190. -/

namespace Sys2Proof.Machine

/-- `RX_H(chunk)` (R81 to R91, R130 to R135). -/
def execRxH (chunk : List Byte) (s : State) : Out := rxEvent .H chunk s

/-- `RX_C(chunk)` (R81 to R91, R136 to R139). -/
def execRxC (chunk : List Byte) (s : State) : Out := rxEvent .C chunk s

/-- `RXERR_H` (R90, R130). -/
def execRxerrH (s : State) : Out := .next (errorLine .H s)

/-- `RXERR_C` (R90, R136). -/
def execRxerrC (s : State) : Out := .next (errorLine .C s)

/-- `TICK` (R171, R172). -/
def execTick (s : State) : Out :=
  match s.mode with
  | .run => tickRun s
  | .diag => .next (tickDiag s)

/-- `MOVE_TO(slot)`: `NotRunning` before `RemoteDisabled` before `BadSlot` (R143, R189, R190); while a command is in progress it
waits at the port: neither accepted nor refused, nothing changes (R149, U14, log 9). -/
def execMoveTo (slot : Byte) (s : State) : Out :=
  match s.mode with
  | .diag => .next (giveBack (.error .notRunning) s)
  | .run =>
    match s.cmdState with
    | .waitLock => .next s
    | .burst => .next s
    | .idle =>
      if s.remoteEn then
        match slotOf slot.toNat with
        | none => .next (giveBack (.error .badSlot) s)
        | some sl => .next { s with cmdSlot := sl, cmdState := .waitLock }
      else .next (giveBack (.error .remoteDisabled) s)

/-- `SET_REMOTE_ENABLED(b)` (R147, R190). -/
def execSetRemoteEnabled (b : Bool) (s : State) : Out :=
  match s.mode with
  | .run => .next { s with remoteEn := b }
  | .diag => .next s

/-- `CURRENT_POSITION` (R148, R190). -/
def execCurrentPosition (s : State) : Out := .next (giveBack (.position s.pos) s)

/-- `CANCEL` (R167, R190). -/
def execCancel (s : State) : Out :=
  match s.mode with
  | .run => .next (cancelRun s)
  | .diag => .next s

/-- `GRANT(Cmd)`; not enabled, it leaves the state unchanged (R141, U8). -/
def execGrantCmd (s : State) : Out := .next (if cmdGrantable s then startCmdBurst s else s)

/-- `GRANT(Ka)`; not enabled, it leaves the state unchanged (R141, U8). -/
def execGrantKa (s : State) : Out := .next (if kaGrantable s then startKaBurst s else s)

/-- `RESET()`: power-up; it emits nothing (R210, R211). -/
def execReset (s : State) : Out := .next (resetBlock s)

end Sys2Proof.Machine
end

