-- ==== Sys2Proof/Machine/PureFunctions.lean ====
section
/-! DEFINITION. The pure functions and the two internal actions of 00_scope.md R8 that have a row of their own. A function's result is given
back as `return v` gives one; nothing else changes (41_protocol_decoder.md R114, log 8). -/

namespace Sys2Proof.Machine

/-- `CHECKSUM(a, b, c)` (R100). -/
def execChecksum (a b c : Byte) (s : State) : Out := .next (giveBack (.byte (checksum a b c)) s)

/-- `DIGIT_BYTE(b)` (R101). -/
def execDigitByte (b : Byte) (s : State) : Out :=
  .next (giveBack (.digit (digitByte s.cfg.digit b).1 (digitByte s.cfg.digit b).2) s)

/-- `DECODE_BUTTON(q)` (R103). -/
def execDecodeButton (q0 q1 q2 q3 : Byte) (s : State) : Out :=
  .next (giveBack (.buttons (decodeButton ⟨q0, q1, q2, q3⟩)) s)

/-- `DECODE_DISPLAY(q)` (R104). -/
def execDecodeDisplay (q0 q1 q2 q3 : Byte) (s : State) : Out :=
  .next (giveBack (.display (decodeDisplay s.cfg.digit ⟨q0, q1, q2, q3⟩)) s)

/-- `ENCODE_COMMAND(slot)` (R120, R121). -/
def execEncodeCommand (slot : Nat) (s : State) : Out :=
  match encodeCommand slot with
  | .ok f => .next (giveBack (.frame f) s)
  | .error e => .next (giveBack (.error e) s)

/-- `ENCODE_KEEPALIVE()` (R122). -/
def execEncodeKeepalive (s : State) : Out := .next (giveBack (.frame encodeKeepalive) s)

/-- `signal_activity()` (R165). -/
def execSignalActivity (s : State) : Out := .next (signalActivity s)

/-- `feed()` (R169). -/
def execWdtFeed (s : State) : Out := .next (feed s)

end Sys2Proof.Machine
end

