-- ==== Sys2Proof/Machine/Dispatch.lean ====
section
/-! DEFINITION. One arm per operation: its meaning. -/

namespace Sys2Proof.Machine

def exec (i : Instr) (s : State) : Host.Outcome State Fault Refusal :=
  match i with
  | .dispNoheight => Sys2Proof.Machine.execDispNoheight s
  | .dispReset => Sys2Proof.Machine.execDispReset s
  | .dispFault p0 d1 d2 ck => Sys2Proof.Machine.execDispFault p0 d1 d2 ck s
  | .dispValue p0 p1 p2 ck => Sys2Proof.Machine.execDispValue p0 p1 p2 ck s
  | .button p0 mask p2 ck => Sys2Proof.Machine.execButton p0 mask p2 ck s
  | .cmdSlot1 => Sys2Proof.Machine.execCmdSlot1 s
  | .cmdSlot2 => Sys2Proof.Machine.execCmdSlot2 s
  | .cmdSlot3 => Sys2Proof.Machine.execCmdSlot3 s
  | .cmdSlot4 => Sys2Proof.Machine.execCmdSlot4 s
  | .keepalive => Sys2Proof.Machine.execKeepalive s
  | .rxH chunk => Sys2Proof.Machine.execRxH chunk s
  | .rxC chunk => Sys2Proof.Machine.execRxC chunk s
  | .rxerrH => Sys2Proof.Machine.execRxerrH s
  | .rxerrC => Sys2Proof.Machine.execRxerrC s
  | .tick => Sys2Proof.Machine.execTick s
  | .moveTo slot => Sys2Proof.Machine.execMoveTo slot s
  | .setRemoteEnabled b => Sys2Proof.Machine.execSetRemoteEnabled b s
  | .currentPosition => Sys2Proof.Machine.execCurrentPosition s
  | .cancel => Sys2Proof.Machine.execCancel s
  | .grantCmd => Sys2Proof.Machine.execGrantCmd s
  | .grantKa => Sys2Proof.Machine.execGrantKa s
  | .reset => Sys2Proof.Machine.execReset s
  | .checksum a b c => Sys2Proof.Machine.execChecksum a b c s
  | .digitByte b => Sys2Proof.Machine.execDigitByte b s
  | .decodeButton q0 q1 q2 q3 => Sys2Proof.Machine.execDecodeButton q0 q1 q2 q3 s
  | .decodeDisplay q0 q1 q2 q3 => Sys2Proof.Machine.execDecodeDisplay q0 q1 q2 q3 s
  | .encodeCommand slot => Sys2Proof.Machine.execEncodeCommand slot s
  | .encodeKeepalive => Sys2Proof.Machine.execEncodeKeepalive s
  | .signalActivity => Sys2Proof.Machine.execSignalActivity s
  | .wdtFeed => Sys2Proof.Machine.execWdtFeed s

end Sys2Proof.Machine
end

