-- ==== Sys2Proof/Machine/Step.lean ====
section
/-! DEFINITION. One step: the oldest pending operation is decoded and performed to completion (20_memory.md R48). -/

namespace Sys2Proof.Machine

/-- One step. With nothing pending no event occurs and the block keeps its state (60_exceptions.md R199). An item is consumed by the
step that presents it; one that encodes no operation is refused (log 4). -/
def step (s : State) : Host.Outcome State Fault Refusal :=
  match s.stim with
  | [] => .next s
  | it :: rest =>
    match decode s.cfg.digit it with
    | .ok i => exec i { s with stim := rest }
    | .error e => .refused (.undecodable e)

/-- The table word as the next pending operation; nothing else changes (log 1). -/
def State.withFetchWord (s : State) (nbits w : Nat) : State := { s with stim := wordItem nbits w :: s.stim }

end Sys2Proof.Machine
end

