-- ==== Sys2Proof/Safety.lean ====
section
/-! DEFINITION. The terms claims use: the invariant of the machine (10_state.md, 43_bridge_arbiter.md R140, 44_keepalive_watchdog.md R160), the
conditions under which an operation has its own effect, runs of many events, fair schedules (43_bridge_arbiter.md R142), and what it
means that two states differ only in something nothing depends on. -/

namespace Sys2Proof.Machine

/-! ### The invariant -/

/-- A reader's buffer between operations: at most `LENGTH - 1` bytes, and empty or headed by the start byte (R11). -/
def bufOk (start : Byte) (b : List Byte) : Prop := b.length ≤ 4 ∧ (b = [] ∨ b.head? = some start)

/-- A position the decoder can produce (R12). -/
def Position.inRange (p : Position) : Prop :=
  p.mantissa ≤ 999 ∧ (p.exponent = -2 ∨ p.exponent = -1 ∨ p.exponent = 0)

/-- The invariant: the value ranges of R10, and the relations the spec states between variables. -/
structure Inv (s : State) : Prop where
  /-- The parameters meet R214. -/
  params : s.cfg.ok = true
  /-- R11. -/
  bufH : bufOk Config.startH s.bufH
  /-- R11. -/
  bufC : bufOk Config.startC s.bufC
  /-- R12. -/
  pos : Position.inRange s.pos
  /-- R140. -/
  cmdHolds : s.busOwner = .cmd ↔ s.cmdState = .burst
  /-- R140. -/
  kaHolds : s.busOwner = .ka ↔ s.kaState = .firingBurst
  /-- R21, R140. -/
  actHigh : s.act = true ↔ s.busOwner ≠ .free
  /-- R10: 0..4 and 0..SPACING. -/
  cmdRange : s.cmdN ≤ 4 ∧ s.cmdSp ≤ s.cfg.spacing
  /-- R10: 0..4 and 0..SPACING. -/
  kaRange : s.kaN ≤ 4 ∧ s.kaSp ≤ s.cfg.spacing
  /-- In a command burst there is a write still to make and a tick still to wait (R145). -/
  cmdCounts : s.cmdState = .burst → 1 ≤ s.cmdN ∧ 1 ≤ s.cmdSp
  /-- The same for the keep-alive burst (R163). -/
  kaCounts : s.kaState = .firingBurst → 1 ≤ s.kaN ∧ 1 ≤ s.kaSp
  /-- R10: 0..KA_INTERVAL. -/
  timerRange : s.kaTimer ≤ s.cfg.kaInterval
  /-- R160: in `Waiting` the timer has not run out. -/
  timerCounts : s.kaState = .waiting → 1 ≤ s.kaTimer
  /-- R23. -/
  pending : s.kaPending = true → s.kaState ≠ .waiting
  /-- R10, R168: 1..WDT_TIMEOUT between operations. -/
  wdt : 1 ≤ s.wdtCnt ∧ s.wdtCnt ≤ s.cfg.wdtTimeout
  /-- R17. -/
  stoppedH : s.runH = .stopped → s.cancel = true
  /-- R17. -/
  stoppedC : s.runC = .stopped → s.cancel = true
  /-- R167: the task is stopped exactly after a cancellation. -/
  kaStopped : s.kaState = .stopped ↔ s.cancel = true
  /-- R190, R211. -/
  modeInit : s.mode = .run ↔ s.cfg.initOk = true
  /-- R190: in `Diag` the state never changes, so it is the reset state, with log 3's values where R215 leaves them unspecified. -/
  diagQuiet : s.mode = .diag → s = { State.resetOf s.cfg with stim := s.stim, trace := s.trace }

/-! ### When an operation has its own effect -/

/-- Reader X takes its next poll: mode `Run`, loop running, not cancelled. -/
def Polls (x : Line) (s : State) : Prop := s.mode = .run ∧ runOf x s = .running ∧ s.cancel = false

/-- Reader X is hunting at a frame boundary, and a poll can hold at least one byte. -/
def Hunting (x : Line) (s : State) : Prop := Polls x s ∧ bufOf x s = [] ∧ 1 ≤ s.cfg.chunkMax

/-- A frame with its line's start byte at its head and nowhere else: what a reader can deliver as `Ok` (R85, R86). -/
def CleanFrame (x : Line) (f : Frame) : Prop :=
  f.header = x.start ∧ f.p0 ≠ x.start ∧ f.p1 ≠ x.start ∧ f.p2 ≠ x.start ∧ f.ck ≠ x.start

/-! ### Operations by line, and what a poll accumulates -/

/-- `RX_X(chunk)` as an operation. -/
def rxInstr (x : Line) (chunk : List Byte) : Instr :=
  match x with
  | .H => .rxH chunk
  | .C => .rxC chunk

/-- `RXERR_X` as an operation. -/
def rxerrInstr (x : Line) : Instr :=
  match x with
  | .H => .rxerrH
  | .C => .rxerrC

/-- The operations by which something arrives on the handset line. -/
def isHandsetOp (i : Instr) : Prop :=
  (∃ chunk, i = .rxH chunk) ∨ i = .rxerrH ∨ ∃ a b c k, i = .button a b c k

/-- The operations by which something arrives on the controller line. -/
def isControllerOp (i : Instr) : Prop :=
  (∃ chunk, i = .rxC chunk) ∨ i = .rxerrC ∨ i = .dispNoheight ∨ i = .dispReset ∨
    (∃ a b c k, i = .dispFault a b c k) ∨ ∃ a b c k, i = .dispValue a b c k

/-- What stands in `buf_X` after a chunk is taken in, said without the loop: while the buffer is empty the bytes before the first
start byte are lost (R82), otherwise every byte is kept (R83). -/
def accumulated (x : Line) (chunk : List Byte) (s : State) : List Byte :=
  if bufOf x s = [] then chunk.dropWhile (fun b => b != x.start) else bufOf x s ++ chunk

/-- What may follow a candidate in the buffer: nothing, or a next start byte (R85). -/
def EndsCandidate (x : Line) (rest : List Byte) : Prop := rest = [] ∨ rest.head? = some x.start

/-- The operation is the row of a frame class with frame `f`, which arrives on line X (R66, log 6). -/
def isFrameRow (x : Line) (f : Frame) (i : Instr) : Prop :=
  f.header = x.start ∧
    match x with
    | .H => i = .button f.p0 f.p1 f.p2 f.ck
    | .C => (i = .dispNoheight ∧ f.payload = zeroPayload) ∨ (i = .dispReset ∧ f.payload = resetPayload) ∨
        i = .dispFault f.p0 f.p1 f.p2 f.ck ∨ i = .dispValue f.p0 f.p1 f.p2 f.ck

/-- The operation delivers `f` as an `Ok` frame of line X: a poll whose candidate is exactly `f` (R85, R86), or the row of a frame
class with that frame, without an inner start byte, at an empty buffer. -/
def readsOk (x : Line) (f : Frame) (i : Instr) (s : State) : Prop :=
  Polls x s ∧
    ((∃ chunk, i = rxInstr x chunk ∧ classify (candidate x.start (accumulated x chunk s)) = .ok f) ∨
      (isFrameRow x f i ∧ CleanFrame x f ∧ bufOf x s = []))

/-- The operation resets the block: `RESET`, or the tick in which the watchdog expires (R210). -/
def Resets (i : Instr) (s : State) : Prop := i = .reset ∨ (i = .tick ∧ s.mode = .run ∧ s.wdtCnt = 1)

/-- The keep-alive part of a tick, said as one update: in `Waiting` the timer counts, and at 0 the task fires (R161, R162). -/
def afterInterval (s : State) : State :=
  if s.kaState = .waiting then
    { s with kaTimer := s.kaTimer - 1, kaState := if s.kaTimer = 1 then .firingWait else .waiting }
  else s

/-- The counter that the tick is the first to ask below 0, in the order of its parts (R171, R214): the watchdog; the interval timer;
the command burst's spacing, then its writes; the keep-alive burst's spacing, then its writes. -/
def tickUnderflow (s : State) : Option Counter :=
  if s.wdtCnt = 0 then some .wdtCnt
  else if s.wdtCnt = 1 then none
  else if s.kaState = .waiting ∧ s.kaTimer = 0 then some .kaTimer
  else if s.cmdState = .burst ∧ s.cmdSp = 0 then some .cmdSp
  else if s.cmdState = .burst ∧ s.cmdSp = 1 ∧ s.cmdN = 0 then some .cmdN
  else if s.kaState = .firingBurst ∧ s.kaSp = 0 then some .kaSp
  else if s.kaState = .firingBurst ∧ s.kaSp = 1 ∧ s.kaN = 0 then some .kaN
  else none

/-! ### Runs -/

/-- Several operations in order, stopping at the first stop. -/
def runOps : List Instr → State → Out
  | [], s => .next s
  | i :: rest, s => andThen (exec i s) (runOps rest)

/-- `n` ticks. -/
def ticks (n : Nat) (s : State) : Out := runOps (List.replicate n .tick) s

/-- `n` steps of the machine. -/
def steps : Nat → State → Out
  | 0, s => .next s
  | n + 1, s => andThen (step s) (steps n)

/-- An endless run under an endless schedule of operations. -/
def ScheduledRun (sched : Nat → Instr) (run : Nat → State) : Prop := ∀ n, exec (sched n) (run n) = .next (run (n + 1))

/-- Weak fairness of `GRANT(Cmd)`: it is not enabled for ever (R142, U9). An assumption about the scheduler. -/
def FairToCmd (run : Nat → State) : Prop := ∀ n, ∃ m, n ≤ m ∧ cmdGrantable (run m) = false

/-- Weak fairness of `GRANT(Ka)` (R142, U9). -/
def FairToKa (run : Nat → State) : Prop := ∀ n, ∃ m, n ≤ m ∧ kaGrantable (run m) = false

/-- Over the schedule, no two `Ok` frames (of either line, R222) are more than `gap` ticks apart, `g` ticks having passed since the
last one before it. A hypothesis about the lines. -/
def GapsAtMost (gap : Nat) : Nat → List Instr → State → Prop
  | _, [], _ => True
  | g, i :: rest, s => ∀ t, exec i s = .next t →
      ((∃ x f, readsOk x f i s) → GapsAtMost gap 0 rest t) ∧
      (¬ (∃ x f, readsOk x f i s) → i = .tick → g + 1 ≤ gap ∧ GapsAtMost gap (g + 1) rest t) ∧
      (¬ (∃ x f, readsOk x f i s) → i ≠ .tick → GapsAtMost gap g rest t)

/-- What R214 asks of `WDT_TIMEOUT`: it is longer than the longest gap between `Ok` frames (R222). -/
def outlastsGap (c : Params) (gap : Nat) : Prop := gap < c.wdtTimeout

/-- What R214 asks of `KA_INTERVAL` (R224): the interval and a command burst in the way fit inside the controller's cutoff. -/
def beatsCutoff (c : Params) (cutoff : Nat) : Prop := c.kaInterval + 4 * c.spacing < cutoff

/-- All that R214 asks of the parameters, for lines with gaps up to `gap` and a controller with the cutoff `cutoff`, in ticks. -/
structure Serves (c : Params) (gap cutoff : Nat) : Prop where
  positive : c.ok = true
  window : outlastsGap c gap
  interval : beatsCutoff c cutoff

/-! ### Outputs -/

/-- What an operation from `s` to `t` put out: the part of `t`'s trace after `s`'s. -/
def newOutputs (s t : State) : List Output := t.trace.drop s.trace.length

/-! ### What nothing depends on -/

/-- An outcome with `f` applied to its next state. -/
def mapNext (f : State → State) : Out → Out
  | .next s => .next (f s)
  | .fault r => .fault r
  | .refused r => .refused r

/-- A state with `ka_pending` forgotten (R166). -/
def forgetPending (s : State) : State := { s with kaPending := false }

/-- A state with `remote_en` forgotten (R147). -/
def forgetRemote (s : State) : State := { s with remoteEn := false }

/-- A state with the variables forgotten that are "not read while ..." (R10, R215): the slot while no command is in progress,
each burst's counters outside that burst. -/
def forgetUnread (s : State) : State :=
  { s with
    cmdSlot := if s.cmdState = .idle then .s1 else s.cmdSlot
    cmdN := if s.cmdState = .burst then s.cmdN else 0
    cmdSp := if s.cmdState = .burst then s.cmdSp else 0
    kaN := if s.kaState = .firingBurst then s.kaN else 0
    kaSp := if s.kaState = .firingBurst then s.kaSp else 0 }

end Sys2Proof.Machine
end

