-- ==== Sys2Proof/Certificates/Slice0/Obligations.lean ====
section
/-! DEFINITION. The statements for the provers. Each docstring names the rules of spec/ it formalises, or says that it rests on
a choice of the model and names the log entry. -/

open Sys2Proof Sys2Proof.Machine

/-! ### Encoding, fetch, step -/

/-- Decoding what the encoder writes gives the operation back, for every well-formed operation and every parameter set. The items'
form is the model's (log 4); frames and lines are those of R60, R66, R67, R71. -/
def Obligations.DecodeOfEncodeIsIdentity : Prop :=
  ∀ (c : Params) (i : Instr), i.wellFormed c = true → decode c.digit (encode i) = .ok i

/-- On every port but the text port, an item that decodes is the encoding of what it decodes to: no bit of a frame is dropped, and what
is decoded keeps its class (R60, R66). -/
def Obligations.FrameItemsRoundTrip : Prop :=
  ∀ (c : Params) (it : Item) (i : Instr), it.port ≠ .script → decode c.digit it = .ok i →
    encode i = it ∧ i.wellFormed c = true

/-- Words written out from the class table R66 and the generated frames R67 decode to their rows; words on the handset line to
`BUTTON`. Where a bare word stands is the model's choice (log 5). -/
def Obligations.SpecWordsDecode : Prop :=
  decodeTableWord 40 0x5A00000000 = some .dispNoheight ∧
  decodeTableWord 40 0x5A776D785C = some .dispReset ∧
  decodeTableWord 40 0x5A79060685 = some (.dispFault 0x79#8 0x06#8 0x06#8 0x85#8) ∧
  decodeTableWord 40 0x5A06DB4F30 = some (.dispValue 0x06#8 0xDB#8 0x4F#8 0x30#8) ∧
  decodeTableWord 40 0xA50020DFFF = some (.button 0x00#8 0x20#8 0xDF#8 0xFF#8) ∧
  decodeTableWord 40 0xA50002FDFF = some .cmdSlot1 ∧
  decodeTableWord 40 0xA500609FFF = some .keepalive ∧
  decodeTableWord 8 0x86 = some (.digitByte 0x86#8) ∧
  decode (defaultDigits none) ⟨.handset, [0xA5#8, 0x00#8, 0x02#8, 0xFD#8, 0xFF#8]⟩ =
    .ok (.button 0x00#8 0x02#8 0xFD#8 0xFF#8)

/-- A step runs the decoded operation: the oldest pending item is taken and `exec` of what it decodes to is the step; nothing pending
leaves the state as it is; an item that encodes nothing is refused (model's fetch, log 1 and 4). -/
def Obligations.StepRunsTheDecodedOperation : Prop :=
  (∀ (s : State) (it : Item) (rest : List Item) (i : Instr), s.stim = it :: rest → decode s.cfg.digit it = .ok i →
    step s = exec i { s with stim := rest }) ∧
  (∀ (s : State), s.stim = [] → step s = .next s) ∧
  (∀ (s : State) (it : Item) (rest : List Item) (e : DecodeError), s.stim = it :: rest → decode s.cfg.digit it = .error e →
    step s = .refused (.undecodable e))

/-- A table word placed for fetching is what the very next step runs, on the state it was placed in (log 1 and 5). -/
def Obligations.FetchedWordRunsNext : Prop :=
  ∀ (s : State) (nbits w : Nat) (i : Instr), s.cfg.digit = defaultDigits none → decodeTableWord nbits w = some i →
    step (s.withFetchWord nbits w) = exec i s

/-! ### Pure functions -/

/-- R100: `CHECKSUM` gives the sum modulo 256 and changes nothing else; `ck_valid` compares `q[3]` with it. -/
def Obligations.ChecksumIsSumMod256 : Prop :=
  (∀ (a b c : Byte) (s : State), ∃ r : Byte, r.toNat = (a.toNat + b.toNat + c.toNat) % 256 ∧
    exec (.checksum a b c) s = .next { s with trace := s.trace ++ [.ret (.byte r)] }) ∧
  (∀ q : Payload, ckValid q = true ↔ q.q3.toNat = (q.q0.toNat + q.q1.toNat + q.q2.toNat) % 256)

/-- R101: a mapped pattern gives its glyph and bit 7, an unmapped one the placeholder and no flag; nothing else changes. -/
def Obligations.DigitByteResult : Prop :=
  ∀ (b : Byte) (s : State),
    (∀ g, lookupDigit s.cfg.digit (b.extractLsb' 0 7) = some g →
      exec (.digitByte b) s = .next { s with trace := s.trace ++ [.ret (.digit (some g) (b.getLsbD 7))] }) ∧
    (lookupDigit s.cfg.digit (b.extractLsb' 0 7) = none →
      exec (.digitByte b) s = .next { s with trace := s.trace ++ [.ret (.digit none false)] })

/-- R103: the key-set is bits 6:0 of `q[1]`, `none` says it is empty, `ck_bad` says the checksum is wrong; nothing else changes. -/
def Obligations.DecodeButtonResult : Prop :=
  ∀ (q0 q1 q2 q3 : Byte) (s : State), ∃ r : ButtonState,
    (∀ i, i < 7 → r.keys.getLsbD i = q1.getLsbD i) ∧
    (r.isNone = true ↔ r.keys = 0#7) ∧
    (r.ckBad = true ↔ q3.toNat ≠ (q0.toNat + q1.toNat + q2.toNat) % 256) ∧
    exec (.decodeButton q0 q1 q2 q3) s = .next { s with trace := s.trace ++ [.ret (.buttons r)] }

/-- R105, R106 and the first tests of R104: under every digit table, `NoHeight` is the result of exactly the all-zero argument and
`Reset` of exactly the reset pattern; `DECODE_DISPLAY` gives its result back and changes nothing else. -/
def Obligations.DistinguishedDisplays : Prop :=
  (∀ (d : DigitTable) (q : Payload), decodeDisplay d q = .noHeight ↔ q = ⟨0x00#8, 0x00#8, 0x00#8, 0x00#8⟩) ∧
  (∀ (d : DigitTable) (q : Payload), decodeDisplay d q = .reset ↔ q = ⟨0x77#8, 0x6D#8, 0x78#8, 0x5C#8⟩) ∧
  (∀ (q0 q1 q2 q3 : Byte) (s : State), exec (.decodeDisplay q0 q1 q2 q3) s =
    .next { s with trace := s.trace ++ [.ret (.display (decodeDisplay s.cfg.digit ⟨q0, q1, q2, q3⟩))] })

/-- R107 with the fault part of R110: a frame whose first glyph is `E` gives the two-digit code, whatever its checksum and its decimal
points, or the format error `NonDigit`. -/
def Obligations.FaultDecode : Prop :=
  ∀ (d : DigitTable) (q : Payload), lookupDigit d (q.q0.extractLsb' 0 7) = some .e →
    q ≠ ⟨0x00#8, 0x00#8, 0x00#8, 0x00#8⟩ → q ≠ ⟨0x77#8, 0x6D#8, 0x78#8, 0x5C#8⟩ →
    (∀ a b : Fin 10, lookupDigit d (q.q1.extractLsb' 0 7) = some (.digit a) →
      lookupDigit d (q.q2.extractLsb' 0 7) = some (.digit b) →
      decodeDisplay d q =
        .fault (10 * a.val + b.val) (decide (q.q3.toNat ≠ (q.q0.toNat + q.q1.toNat + q.q2.toNat) % 256))) ∧
    ((∀ a : Fin 10, lookupDigit d (q.q1.extractLsb' 0 7) ≠ some (.digit a)) ∨
      (∀ b : Fin 10, lookupDigit d (q.q2.extractLsb' 0 7) ≠ some (.digit b)) →
      decodeDisplay d q = .formatError .nonDigit)

/-- R108, R111: three digits with at most one decimal point give mantissa `100a + 10b + c`, the exponent by the flagged byte's place, and
the checksum's verdict. -/
def Obligations.ValueDecode : Prop :=
  ∀ (d : DigitTable) (q : Payload) (a b c : Fin 10),
    lookupDigit d (q.q0.extractLsb' 0 7) = some (.digit a) → lookupDigit d (q.q1.extractLsb' 0 7) = some (.digit b) →
    lookupDigit d (q.q2.extractLsb' 0 7) = some (.digit c) →
    q ≠ ⟨0x00#8, 0x00#8, 0x00#8, 0x00#8⟩ → q ≠ ⟨0x77#8, 0x6D#8, 0x78#8, 0x5C#8⟩ →
    (q.q0.getLsbD 7 && q.q1.getLsbD 7) = false → (q.q0.getLsbD 7 && q.q2.getLsbD 7) = false →
    (q.q1.getLsbD 7 && q.q2.getLsbD 7) = false →
    decodeDisplay d q =
      .value (100 * a.val + 10 * b.val + c.val)
        (if q.q0.getLsbD 7 then -2 else if q.q1.getLsbD 7 then -1 else 0)
        (decide (q.q3.toNat ≠ (q.q0.toNat + q.q1.toNat + q.q2.toNat) % 256))

/-- R109 and the value part of R110, for a frame whose first glyph is not `E`: byte by byte from the left, a second point is `DupDp`
and is found before the digit test of its own byte; a glyph that is no digit is `NonDigit`. The four cases are the first byte,
a second point on byte 1, byte 1, a second point on byte 2, byte 2, in this order. -/
def Obligations.FormatErrorDecode : Prop :=
  ∀ (d : DigitTable) (q : Payload), lookupDigit d (q.q0.extractLsb' 0 7) ≠ some .e →
    q ≠ ⟨0x00#8, 0x00#8, 0x00#8, 0x00#8⟩ → q ≠ ⟨0x77#8, 0x6D#8, 0x78#8, 0x5C#8⟩ →
    let isDigit : Byte → Prop := fun b => ∃ n : Fin 10, lookupDigit d (b.extractLsb' 0 7) = some (.digit n)
    let point : Byte → Prop := fun b => lookupDigit d (b.extractLsb' 0 7) ≠ none ∧ b.getLsbD 7 = true
    (¬ isDigit q.q0 → decodeDisplay d q = .formatError .nonDigit) ∧
    (isDigit q.q0 → point q.q0 ∧ point q.q1 → decodeDisplay d q = .formatError .dupDp) ∧
    (isDigit q.q0 → ¬ (point q.q0 ∧ point q.q1) → ¬ isDigit q.q1 → decodeDisplay d q = .formatError .nonDigit) ∧
    (isDigit q.q0 → isDigit q.q1 → ¬ (point q.q0 ∧ point q.q1) → (point q.q0 ∨ point q.q1) ∧ point q.q2 →
      decodeDisplay d q = .formatError .dupDp) ∧
    (isDigit q.q0 → isDigit q.q1 → ¬ (point q.q0 ∧ point q.q1) → ¬ ((point q.q0 ∨ point q.q1) ∧ point q.q2) →
      ¬ isDigit q.q2 → decodeDisplay d q = .formatError .nonDigit)

/-- R113, R116: under every digit table a fault code is at most 99, a mantissa at most 999, an exponent -2, -1 or 0. -/
def Obligations.DisplayResultsInRange : Prop :=
  ∀ (d : DigitTable) (q : Payload),
    (∀ code bad, decodeDisplay d q = .fault code bad → code ≤ 99) ∧
    (∀ m e bad, decodeDisplay d q = .value m e bad → m ≤ 999 ∧ (e = -2 ∨ e = -1 ∨ e = 0))

/-- R120, R121: the command frames of slots 1..4, `BadSlot` and no frame for every other number; nothing else changes. -/
def Obligations.EncoderResults : Prop :=
  (∀ (slot : Nat) (s : State), 1 ≤ slot → slot ≤ 4 →
    exec (.encodeCommand slot) s = .next { s with trace := s.trace ++
      [.ret (.frame ⟨0xA5#8, 0x00#8, 1#8 <<< slot, 0xFF#8 - 1#8 <<< slot, 0xFF#8⟩)] }) ∧
  (∀ (slot : Nat) (s : State), slot < 1 ∨ 4 < slot →
    exec (.encodeCommand slot) s = .next { s with trace := s.trace ++ [.ret (.error .badSlot)] })

/-- R122, R117, R123 (inferences that the spec marks as its own): the keep-alive frame; a generated frame of any mask is checksum-valid
with checksum byte FF; a frame of a non-empty 7-bit key-set decodes to that key-set; none of the five generated frames holds A5
after its header. -/
def Obligations.GeneratedFramesDecode : Prop :=
  (∀ s : State, exec .encodeKeepalive s =
    .next { s with trace := s.trace ++ [.ret (.frame ⟨0xA5#8, 0x00#8, 0x60#8, 0x9F#8, 0xFF#8⟩)] }) ∧
  (∀ m : Byte, ckValid (synthFrame m).payload = true ∧ (synthFrame m).ck = 0xFF#8) ∧
  (∀ keys : KeySet, keys ≠ 0#7 →
    decodeButton ⟨0x00#8, keys.zeroExtend 8, 0xFF#8 - keys.zeroExtend 8, 0xFF#8⟩ = ⟨keys, false, false⟩) ∧
  (∀ sl : Slot, CleanFrame .H (slotFrame sl)) ∧ CleanFrame .H encodeKeepalive

/-! ### Frame reader -/

/-- R84 with R82 and R83: a poll that leaves fewer than five bytes has no outcome; the buffer holds the bytes from the first start byte on
(or the old bytes and all new ones), and nothing else changes. -/
def Obligations.IncompletePollKeepsBytes : Prop :=
  ∀ (x : Line) (chunk : List Byte) (s : State), Polls x s → chunk.length ≤ s.cfg.chunkMax →
    (accumulated x chunk s).length < 5 → exec (rxInstr x chunk) s = .next (setBuf x (accumulated x chunk s) s)

/-- R82, R93: while a reader hunts, bytes different from its start byte in front of a chunk change nothing at all. -/
def Obligations.StraysAreDiscarded : Prop :=
  ∀ (x : Line) (strays chunk : List Byte) (s : State), bufOf x s = [] → (∀ b ∈ strays, b ≠ x.start) →
    (strays ++ chunk).length ≤ s.cfg.chunkMax → exec (rxInstr x (strays ++ chunk)) s = exec (rxInstr x chunk) s

/-- R40, R83, R84: while the frame is incomplete, how the stream is cut into polls does not matter: two polls are one poll of both
chunks. Holds in every state, stopped, cancelled or in `Diag` as well. -/
def Obligations.ChunkingOfAnIncompleteFrame : Prop :=
  ∀ (x : Line) (first second : List Byte) (s : State), (first ++ second).length ≤ s.cfg.chunkMax →
    (accumulated x first s).length < 5 →
    runOps [rxInstr x first, rxInstr x second] s = exec (rxInstr x (first ++ second)) s

/-- R85, R86, R89: an exact candidate is the frame of its class: the poll does what the arrival of that frame does on an empty buffer, and
whatever followed the candidate is lost. -/
def Obligations.ExactCandidateIsItsFrame : Prop :=
  ∀ (chunk : List Byte) (s : State) (f : Frame) (rest : List Byte), chunk.length ≤ s.cfg.chunkMax → 1 ≤ s.cfg.chunkMax →
    (Polls .H s → CleanFrame .H f → accumulated .H chunk s = f.bytes ++ rest → EndsCandidate .H rest →
      exec (.rxH chunk) s = exec (.button f.p0 f.p1 f.p2 f.ck) { s with bufH := [] }) ∧
    (Polls .C s → CleanFrame .C f → accumulated .C chunk s = f.bytes ++ rest → EndsCandidate .C rest →
      exec (.rxC chunk) s = exec (decodeController s.cfg.digit f.payload) { s with bufC := [] })

/-- R87, R89, R130: a long candidate is truncated and reported with the checksum's verdict; the buffer is emptied; nothing else
changes, so nothing is decoded, forwarded or fed. -/
def Obligations.LongCandidateReported : Prop :=
  ∀ (x : Line) (chunk : List Byte) (s : State) (f : Frame) (extra rest : List Byte), Polls x s →
    chunk.length ≤ s.cfg.chunkMax → CleanFrame x f → extra ≠ [] → (∀ b ∈ extra, b ≠ x.start) →
    accumulated x chunk s = f.bytes ++ extra ++ rest → EndsCandidate x rest →
    exec (rxInstr x chunk) s = .next { setBuf x [] s with trace := s.trace ++
      [.diag (.framingLong x f (decide (f.ck.toNat = (f.p0.toNat + f.p1.toNat + f.p2.toNat) % 256)))] }

/-- R88, R89, R130: a start byte at index 1..4 of at least five bytes ends the candidate short; it is reported, the rest is lost,
nothing else changes. -/
def Obligations.ShortCandidateReported : Prop :=
  ∀ (x : Line) (chunk : List Byte) (s : State) (tail rest : List Byte), Polls x s → chunk.length ≤ s.cfg.chunkMax →
    (∀ b ∈ tail, b ≠ x.start) → tail.length ≤ 3 →
    accumulated x chunk s = x.start :: tail ++ x.start :: rest → 5 ≤ (accumulated x chunk s).length →
    exec (rxInstr x chunk) s =
      .next { setBuf x [] s with trace := s.trace ++ [.diag (.framingShort x (x.start :: tail))] }

/-- R87's corner case and R92: with one byte per poll no long candidate is ever reported, from any state whose buffer is one the reader
can leave (R11). -/
def Obligations.ByteSerialIsNeverLong : Prop :=
  ∀ (x : Line) (b : Byte) (s t : State), bufOk x.start (bufOf x s) → exec (rxInstr x [b]) s = .next t →
    ∀ (y : Line) (f : Frame) (good : Bool), Output.diag (.framingLong y f good) ∉ newOutputs s t

/-- R90: a read error gives what was accumulated to the sink and empties the buffer; nothing else changes. The cancellation check comes
first: where it finds `cancel`, the loop ends instead. A stopped loop, or the block in `Diag`, does nothing. -/
def Obligations.ReadErrorEmptiesBuffer : Prop :=
  ∀ (x : Line) (s : State),
    (Polls x s → exec (rxerrInstr x) s =
      .next { setBuf x [] s with trace := s.trace ++ [.diag (.readError x (bufOf x s))] }) ∧
    (s.mode = .run → runOf x s = .running → s.cancel = true → exec (rxerrInstr x) s =
      .next { setRun x .stopped (setBuf x [] s) with trace := s.trace ++ [.diag (.canceled x)] }) ∧
    (runOf x s = .stopped ∨ s.mode = .diag → exec (rxerrInstr x) s = .next s)

/-- R81: the first poll (or read error) after a cancellation reads nothing, empties the buffer, stops the loop and reports once; later
ones do nothing. -/
def Obligations.CancelledPollStopsLoop : Prop :=
  ∀ (x : Line) (i : Instr) (s : State),
    ((∃ chunk, i = rxInstr x chunk ∧ chunk.length ≤ s.cfg.chunkMax) ∨ i = rxerrInstr x) →
    (s.mode = .run → runOf x s = .running → s.cancel = true →
      exec i s = .next { setRun x .stopped (setBuf x [] s) with trace := s.trace ++ [.diag (.canceled x)] }) ∧
    (runOf x s = .stopped → exec i s = .next s)

/-- A frame operation is the arrival of its five bytes (model's reading, log 6): where a poll can hold them it is that poll, in every state;
at a hunting reader a start byte inside the frame makes it a short candidate, which is reported and not handled (R85, R88), however the
bytes are delivered; and where the loop is stopped or the block in `Diag` nothing happens (R81, R190). -/
def Obligations.FrameOperationForms : Prop :=
  ∀ (x : Line) (q : Payload) (i : Instr) (s : State),
    (x = .H ∧ i = .button q.q0 q.q1 q.q2 q.q3) ∨ (x = .C ∧ i = decodeController s.cfg.digit q) →
    let held : List Byte := [q.q0, q.q1, q.q2, q.q3].takeWhile (fun b => b != x.start)
    (5 ≤ s.cfg.chunkMax → exec i s = exec (rxInstr x [x.start, q.q0, q.q1, q.q2, q.q3]) s) ∧
    (Hunting x s → held.length < 4 →
      exec i s = .next { s with trace := s.trace ++ [.diag (.framingShort x (x.start :: held))] }) ∧
    (1 ≤ s.cfg.chunkMax → s.mode = .diag ∨ runOf x s = .stopped → exec i s = .next s)

/-- Where the model stops by name (log 10, 11): a chunk longer than `CHUNK_MAX` is refused; a tick that asks a down-counter below 0
faults and names the first such counter, and every other tick has a next state; a write of a generated frame faults where no
write is left to make. -/
def Obligations.NamedStops : Prop :=
  (∀ (x : Line) (chunk : List Byte) (s : State), s.cfg.chunkMax < chunk.length →
    exec (rxInstr x chunk) s = .refused .chunkTooLong) ∧
  (∀ s : State, s.mode = .run →
    (∀ c, tickUnderflow s = some c → exec .tick s = .fault (.counterUnderflow c)) ∧
    (tickUnderflow s = none → ∃ t, exec .tick s = .next t)) ∧
  (∀ (sl : Slot) (i : Instr) (s : State),
    (sl = .s1 ∧ i = .cmdSlot1) ∨ (sl = .s2 ∧ i = .cmdSlot2) ∨ (sl = .s3 ∧ i = .cmdSlot3) ∨ (sl = .s4 ∧ i = .cmdSlot4) →
    s.mode = .run → s.cmdState = .burst → s.cmdSlot = sl → s.cmdN = 0 → exec i s = .fault (.counterUnderflow .cmdN)) ∧
  (∀ s : State, s.mode = .run → s.kaState = .firingBurst → s.kaN = 0 →
    exec .keepalive s = .fault (.counterUnderflow .kaN))

/-! ### The pumps -/

/-- R132 to R135 (with the feed of R131 and the signal of R165): a handset frame feeds the watchdog, reports a bad checksum and a changed
key-set, signals activity where a key is down, and is forwarded unchanged where the bus is free and dropped where it is held. Nothing
else changes. The row of a frame class is the arrival of its frame (log 6); so in the next four statements. -/
def Obligations.ButtonFrameHandled : Prop :=
  ∀ (p0 mask p2 ck : Byte) (s : State), Hunting .H s → CleanFrame .H ⟨0xA5#8, p0, mask, p2, ck⟩ →
    let f : Frame := ⟨0xA5#8, p0, mask, p2, ck⟩
    let keys : KeySet := mask.extractLsb' 0 7
    exec (.button p0 mask p2 ck) s = .next
      { s with
        wdtCnt := s.cfg.wdtTimeout
        prevKeys := keys
        kaTimer := if keys ≠ 0#7 ∧ s.kaState = .waiting then s.cfg.kaInterval else s.kaTimer
        kaPending := if keys ≠ 0#7 ∧ s.kaState ≠ .waiting then true else s.kaPending
        trace := s.trace ++
          (if ck.toNat ≠ (p0.toNat + mask.toNat + p2.toNat) % 256 then [.diag (.checksumMismatch .H f)] else []) ++
          (if keys ≠ s.prevKeys then [.diag (.keysChanged keys (decide (keys = 0#7)))] else []) ++
          (if s.busOwner = .free then [.txCtrl f] else []) }

/-- R139, R138 for `NoHeight`: the watchdog is fed, the position keeps its value, no diagnostic, pass-through as configured. -/
def Obligations.NoHeightFrameHandled : Prop :=
  ∀ s : State, Hunting .C s →
    exec .dispNoheight s = .next
      { s with
        wdtCnt := s.cfg.wdtTimeout
        trace := s.trace ++
          (if s.cfg.passThrough = true then [.txHand ⟨0x5A#8, 0x00#8, 0x00#8, 0x00#8, 0x00#8⟩] else []) }

/-- R139, R138 for `Reset`: the watchdog is fed, `DisplayReset` is reported, pass-through as configured. -/
def Obligations.ResetFrameHandled : Prop :=
  ∀ s : State, Hunting .C s →
    exec .dispReset s = .next
      { s with
        wdtCnt := s.cfg.wdtTimeout
        trace := s.trace ++ [.diag .displayReset] ++
          (if s.cfg.passThrough = true then [.txHand ⟨0x5A#8, 0x77#8, 0x6D#8, 0x78#8, 0x5C#8⟩] else []) }

/-- R107, R139, R138: a fault frame of the class reports its two-digit code with the checksum's verdict, or the format error where a
digit is missing; no state but the watchdog changes. -/
def Obligations.FaultFrameHandled : Prop :=
  ∀ (p0 d1 d2 ck : Byte) (s : State), Hunting .C s → (Instr.dispFault p0 d1 d2 ck).wellFormed s.cfg = true →
    CleanFrame .C ⟨0x5A#8, p0, d1, d2, ck⟩ →
    let f : Frame := ⟨0x5A#8, p0, d1, d2, ck⟩
    let pass : List Output := if s.cfg.passThrough = true then [.txHand f] else []
    (∀ a b : Fin 10, lookupDigit s.cfg.digit (d1.extractLsb' 0 7) = some (.digit a) →
      lookupDigit s.cfg.digit (d2.extractLsb' 0 7) = some (.digit b) →
      exec (.dispFault p0 d1 d2 ck) s = .next
        { s with
          wdtCnt := s.cfg.wdtTimeout
          trace := s.trace ++
            [.diag (.controllerFault (10 * a.val + b.val)
              (decide (ck.toNat ≠ (p0.toNat + d1.toNat + d2.toNat) % 256)))] ++ pass }) ∧
    ((∀ a : Fin 10, lookupDigit s.cfg.digit (d1.extractLsb' 0 7) ≠ some (.digit a)) ∨
      (∀ b : Fin 10, lookupDigit s.cfg.digit (d2.extractLsb' 0 7) ≠ some (.digit b)) →
      exec (.dispFault p0 d1 d2 ck) s = .next
        { s with
          wdtCnt := s.cfg.wdtTimeout
          trace := s.trace ++ [.diag (.formatError .C .nonDigit f)] ++ pass })

/-- R137, R139, R138: a value frame writes the position exactly when it decodes with a good checksum; a bad checksum or a format error is
reported instead; nothing but the position and the watchdog changes. -/
def Obligations.ValueFrameHandled : Prop :=
  ∀ (p0 p1 p2 ck : Byte) (s : State), Hunting .C s → CleanFrame .C ⟨0x5A#8, p0, p1, p2, ck⟩ →
    let f : Frame := ⟨0x5A#8, p0, p1, p2, ck⟩
    let pass : List Output := if s.cfg.passThrough = true then [.txHand f] else []
    (∀ m e, decodeDisplay s.cfg.digit f.payload = .value m e false →
      exec (.dispValue p0 p1 p2 ck) s =
        .next { s with wdtCnt := s.cfg.wdtTimeout, pos := ⟨m, e⟩, trace := s.trace ++ pass }) ∧
    (∀ m e, decodeDisplay s.cfg.digit f.payload = .value m e true →
      exec (.dispValue p0 p1 p2 ck) s = .next
        { s with wdtCnt := s.cfg.wdtTimeout, trace := s.trace ++ [.diag (.checksumMismatch .C f)] ++ pass }) ∧
    (∀ why, decodeDisplay s.cfg.digit f.payload = .formatError why →
      exec (.dispValue p0 p1 p2 ck) s = .next
        { s with wdtCnt := s.cfg.wdtTimeout, trace := s.trace ++ [.diag (.formatError .C why f)] ++ pass })

/-- R13, R137: over all operations, from every buffer the reader can leave (R11), the position changes only by an operation that delivers an
`Ok` frame of the controller line, to the value that very frame decodes to with a good checksum, or by a reset. -/
def Obligations.PositionHasOneWriter : Prop :=
  ∀ (i : Instr) (s t : State), bufOk Config.startC s.bufC → exec i s = .next t → t.pos ≠ s.pos →
    (∃ f : Frame, readsOk .C f i s ∧ ckValid f.payload = true ∧
      decodeDisplay s.cfg.digit f.payload = .value t.pos.mantissa t.pos.exponent false) ∨
    (Resets i s ∧ t.pos = ⟨0, 0⟩)

/-- R41, R43, R50: what arrives on one line leaves the other line's reader and the other direction's state and output alone; the handset
line is written by controller-line operations only, and only where `PASS_THROUGH` (R138). -/
def Obligations.LinesAreIndependent : Prop :=
  ∀ (i : Instr) (s t : State), exec i s = .next t →
    (isHandsetOp i → t.bufC = s.bufC ∧ t.runC = s.runC ∧ t.pos = s.pos) ∧
    (isControllerOp i → t.bufH = s.bufH ∧ t.runH = s.runH ∧ t.prevKeys = s.prevKeys ∧ t.kaTimer = s.kaTimer ∧
      t.kaPending = s.kaPending ∧ ∀ f, Output.txCtrl f ∉ newOutputs s t) ∧
    (∀ f, Output.txHand f ∈ newOutputs s t → isControllerOp i ∧ s.cfg.passThrough = true)

/-- R42, R140: mutual exclusion on the controller bus. Whatever operation writes a frame to it, either the bus is free and the writer is
pump H or a grant taking the bus, or the frame is that of the burst whose writer holds the bus. -/
def Obligations.BusWritesAreMutuallyExclusive : Prop :=
  ∀ (i : Instr) (s t : State) (f : Frame), Inv s → exec i s = .next t → Output.txCtrl f ∈ newOutputs s t →
    (s.busOwner = .free ∧ isHandsetOp i ∧ t.busOwner = .free) ∨
    (s.busOwner = .free ∧ i = .grantCmd ∧ f = slotFrame s.cmdSlot ∧ t.busOwner = .cmd) ∨
    (s.busOwner = .free ∧ i = .grantKa ∧ f = encodeKeepalive ∧ t.busOwner = .ka) ∨
    (s.busOwner = .cmd ∧ f = slotFrame s.cmdSlot) ∨
    (s.busOwner = .ka ∧ f = encodeKeepalive)

/-! ### Arbiter and host operations -/

/-- R141, R144, R163: an enabled grant gives the bus to its writer and starts the burst: line high, first of five writes, four to make,
spacing loaded. Nothing else changes. -/
def Obligations.GrantStartsBurst : Prop :=
  (∀ s : State, s.mode = .run → s.busOwner = .free → s.cmdState = .waitLock →
    exec .grantCmd s = .next
      { s with
        busOwner := .cmd, cmdState := .burst, act := true, cmdN := 4, cmdSp := s.cfg.spacing
        trace := s.trace ++ [.act true, .txCtrl ⟨0xA5#8, 0x00#8, 1#8 <<< s.cmdSlot.toNat,
          0xFF#8 - 1#8 <<< s.cmdSlot.toNat, 0xFF#8⟩] }) ∧
  (∀ s : State, s.mode = .run → s.busOwner = .free → s.kaState = .firingWait →
    exec .grantKa s = .next
      { s with
        busOwner := .ka, kaState := .firingBurst, act := true, kaN := 4, kaSp := s.cfg.spacing
        trace := s.trace ++ [.act true, .txCtrl ⟨0xA5#8, 0x00#8, 0x60#8, 0x9F#8, 0xFF#8⟩] })

/-- R143 (and R190 for `Diag`): the checks of `MOVE_TO` in their order: `NotRunning`, `RemoteDisabled`, `BadSlot`, each with no state
change; otherwise the request is accepted, the slot kept, the sequencer waits for the bus and nothing is returned yet. -/
def Obligations.MoveToChecks : Prop :=
  ∀ (slot : Byte) (s : State),
    (s.mode = .diag → exec (.moveTo slot) s = .next { s with trace := s.trace ++ [.ret (.error .notRunning)] }) ∧
    (s.mode = .run → s.cmdState = .idle → s.remoteEn = false →
      exec (.moveTo slot) s = .next { s with trace := s.trace ++ [.ret (.error .remoteDisabled)] }) ∧
    (s.mode = .run → s.cmdState = .idle → s.remoteEn = true → slot.toNat < 1 ∨ 4 < slot.toNat →
      exec (.moveTo slot) s = .next { s with trace := s.trace ++ [.ret (.error .badSlot)] }) ∧
    (s.mode = .run → s.cmdState = .idle → s.remoteEn = true → 1 ≤ slot.toNat → slot.toNat ≤ 4 →
      ∃ sl : Slot, sl.toNat = slot.toNat ∧ exec (.moveTo slot) s = .next { s with cmdSlot := sl, cmdState := .waitLock })

/-- What is not enabled changes nothing (model's reading of R141, R149, R190, log 9): a grant where the bus is held, the asker does not
wait or the block is in `Diag`; a `MOVE_TO` while a command is in progress, which is neither accepted nor refused. -/
def Obligations.NotEnabledChangesNothing : Prop :=
  ∀ s : State,
    (s.mode = .diag ∨ s.busOwner ≠ .free ∨ s.cmdState ≠ .waitLock → exec .grantCmd s = .next s) ∧
    (s.mode = .diag ∨ s.busOwner ≠ .free ∨ s.kaState ≠ .firingWait → exec .grantKa s = .next s) ∧
    (∀ slot : Byte, s.mode = .run → s.cmdState ≠ .idle → exec (.moveTo slot) s = .next s)

/-- R147, R148 (and R190): `SET_REMOTE_ENABLED` writes `remote_en` and nothing else; `CURRENT_POSITION` returns `pos` and changes
nothing, in either mode. -/
def Obligations.RemoteBitAndPositionQuery : Prop :=
  (∀ (b : Bool) (s : State), s.mode = .run → exec (.setRemoteEnabled b) s = .next { s with remoteEn := b }) ∧
  (∀ (b : Bool) (s : State), s.mode = .diag → exec (.setRemoteEnabled b) s = .next s) ∧
  (∀ s : State, exec .currentPosition s = .next { s with trace := s.trace ++ [.ret (.position s.pos)] })

/-- R167: `CANCEL` latches `cancel` and stops the keep-alive task; a keep-alive burst in progress is cut off, with the bus released and
the line lowered; pumps and sequencer are untouched. In `Diag` it does nothing (R190). -/
def Obligations.CancelStopsKeepAlive : Prop :=
  ∀ s : State,
    (s.mode = .run → s.kaState = .firingBurst → exec .cancel s = .next
      { s with cancel := true, kaState := .stopped, busOwner := .free, act := false, trace := s.trace ++ [.act false] }) ∧
    (s.mode = .run → s.kaState ≠ .firingBurst → exec .cancel s = .next { s with cancel := true, kaState := .stopped }) ∧
    (s.mode = .diag → exec .cancel s = .next s)

/-- R211: after `RESET()` every variable with a reset value has it, `mode` follows `INIT_OK`, the parameters stay, and nothing is
emitted. -/
def Obligations.ResetValues : Prop :=
  ∀ s : State, ∃ t : State, exec .reset s = .next t ∧
    t.bufH = [] ∧ t.bufC = [] ∧ t.pos = ⟨0, 0⟩ ∧ t.prevKeys = 0#7 ∧ t.runH = .running ∧ t.runC = .running ∧
    t.cmdState = .idle ∧ t.kaState = .waiting ∧ t.kaTimer = s.cfg.kaInterval ∧ t.kaPending = false ∧
    t.busOwner = .free ∧ t.act = false ∧ t.remoteEn = s.cfg.remoteEnReset ∧ t.cancel = false ∧
    t.wdtCnt = s.cfg.wdtTimeout ∧ (s.cfg.initOk = true → t.mode = .run) ∧ (s.cfg.initOk = false → t.mode = .diag) ∧
    t.cfg = s.cfg ∧ t.trace = s.trace

/-- R165, R169: the activity signal reloads the interval timer in `Waiting` and is left pending in every other state, a second one being
lost; a feed reloads the watchdog. Nothing else changes. -/
def Obligations.ActivitySignalAndFeed : Prop :=
  (∀ s : State, s.kaState = .waiting → exec .signalActivity s = .next { s with kaTimer := s.cfg.kaInterval }) ∧
  (∀ s : State, s.kaState ≠ .waiting → exec .signalActivity s = .next { s with kaPending := true }) ∧
  (∀ s : State, exec .wdtFeed s = .next { s with wdtCnt := s.cfg.wdtTimeout })

/-- The generated frames as operations (log 7, from R145, R146, R163, R164): the holder's write of its frame, followed by the next spacing, or
by the end of the burst after the fifth; elsewhere nothing. -/
def Obligations.GeneratedFrameWrites : Prop :=
  (∀ (sl : Slot) (i : Instr) (s : State),
    (sl = .s1 ∧ i = .cmdSlot1) ∨ (sl = .s2 ∧ i = .cmdSlot2) ∨ (sl = .s3 ∧ i = .cmdSlot3) ∨ (sl = .s4 ∧ i = .cmdSlot4) →
    let w : Output := .txCtrl ⟨0xA5#8, 0x00#8, 1#8 <<< sl.toNat, 0xFF#8 - 1#8 <<< sl.toNat, 0xFF#8⟩
    (s.mode = .run → s.cmdState = .burst → s.cmdSlot = sl → 2 ≤ s.cmdN →
      exec i s = .next { s with cmdN := s.cmdN - 1, cmdSp := s.cfg.spacing, trace := s.trace ++ [w] }) ∧
    (s.mode = .run → s.cmdState = .burst → s.cmdSlot = sl → s.cmdN = 1 →
      exec i s = .next
        { s with
          cmdN := 0, act := false, busOwner := .free, cmdState := .idle
          kaTimer := if s.kaState = .waiting then s.cfg.kaInterval else s.kaTimer
          kaPending := if s.kaState = .waiting then s.kaPending else true
          trace := s.trace ++ [w, .act false, .ret .ok] }) ∧
    (s.mode = .diag ∨ s.cmdState ≠ .burst ∨ s.cmdSlot ≠ sl → exec i s = .next s)) ∧
  (∀ s : State,
    let w : Output := .txCtrl ⟨0xA5#8, 0x00#8, 0x60#8, 0x9F#8, 0xFF#8⟩
    (s.mode = .run → s.kaState = .firingBurst → 2 ≤ s.kaN →
      exec .keepalive s = .next { s with kaN := s.kaN - 1, kaSp := s.cfg.spacing, trace := s.trace ++ [w] }) ∧
    (s.mode = .run → s.kaState = .firingBurst → s.kaN = 1 →
      exec .keepalive s = .next
        { s with
          kaN := 0, act := false, busOwner := .free, kaState := .waiting, kaTimer := s.cfg.kaInterval, kaPending := false
          trace := s.trace ++ [w, .act false] }) ∧
    (s.mode = .diag ∨ s.kaState ≠ .firingBurst → exec .keepalive s = .next s))

/-! ### TICK -/

/-- R161, R162, R168: a tick outside the bursts and before the watchdog's end counts the watchdog down and, in `Waiting`, the interval
timer, the task firing when it reaches 0; nothing is emitted and nothing else changes. -/
def Obligations.QuietTick : Prop :=
  ∀ s : State, s.mode = .run → 2 ≤ s.wdtCnt → s.cmdState ≠ .burst → s.kaState ≠ .firingBurst →
    (s.kaState = .waiting → 1 ≤ s.kaTimer) →
    exec .tick s = .next { afterInterval s with wdtCnt := s.wdtCnt - 1 }

/-- R145, R146, R171: a tick in a command burst, after the interval part: it counts the spacing; at 0 it writes the frame again; at
the fifth write it ends the burst, lowers the line, releases the bus, signals activity and returns `Ok`. -/
def Obligations.CommandBurstTick : Prop :=
  ∀ s : State, s.mode = .run → 2 ≤ s.wdtCnt → s.cmdState = .burst → s.kaState ≠ .firingBurst →
    (s.kaState = .waiting → 1 ≤ s.kaTimer) → 1 ≤ s.cmdN →
    let u : State := { afterInterval s with wdtCnt := s.wdtCnt - 1 }
    (2 ≤ s.cmdSp → exec .tick s = .next { u with cmdSp := s.cmdSp - 1 }) ∧
    (s.cmdSp = 1 → 2 ≤ s.cmdN → exec .tick s = .next
      { u with cmdSp := s.cfg.spacing, cmdN := s.cmdN - 1, trace := s.trace ++ [.txCtrl (slotFrame s.cmdSlot)] }) ∧
    (s.cmdSp = 1 → s.cmdN = 1 → exec .tick s = .next
      { u with
        cmdSp := 0, cmdN := 0, act := false, busOwner := .free, cmdState := .idle
        kaTimer := if u.kaState = .waiting then s.cfg.kaInterval else u.kaTimer
        kaPending := if u.kaState = .waiting then s.kaPending else true
        trace := s.trace ++ [.txCtrl (slotFrame s.cmdSlot), .act false, .ret .ok] })

/-- R163, R164, R171: a tick in a keep-alive burst: it counts the spacing; at 0 it writes the frame again; at the fifth write it ends the
burst and restarts the interval. -/
def Obligations.KeepAliveBurstTick : Prop :=
  ∀ s : State, s.mode = .run → 2 ≤ s.wdtCnt → s.cmdState ≠ .burst → s.kaState = .firingBurst → 1 ≤ s.kaN →
    (2 ≤ s.kaSp → exec .tick s = .next { s with wdtCnt := s.wdtCnt - 1, kaSp := s.kaSp - 1 }) ∧
    (s.kaSp = 1 → 2 ≤ s.kaN → exec .tick s = .next
      { s with
        wdtCnt := s.wdtCnt - 1, kaSp := s.cfg.spacing, kaN := s.kaN - 1
        trace := s.trace ++ [.txCtrl encodeKeepalive] }) ∧
    (s.kaSp = 1 → s.kaN = 1 → exec .tick s = .next
      { s with
        wdtCnt := s.wdtCnt - 1, kaSp := 0, kaN := 0, act := false, busOwner := .free, kaState := .waiting
        kaTimer := s.cfg.kaInterval, kaPending := false
        trace := s.trace ++ [.txCtrl encodeKeepalive, .act false] })

/-- R172: a tick in `Diag` feeds the watchdog and reports `InitFail`; nothing else, so no timer counts and the mode is not left. -/
def Obligations.DiagTick : Prop :=
  ∀ s : State, s.mode = .diag →
    exec .tick s = .next { s with wdtCnt := s.cfg.wdtTimeout, trace := s.trace ++ [.diag .initFail] }

/-! ### The whole machine -/

/-- The invariant holds after reset, under all parameters that meet R214 (the state after reset is the one for the model's parameter set,
log 2). -/
def Obligations.InvariantAtReset : Prop :=
  (∀ c : Params, c.ok = true → Inv (State.resetOf c)) ∧ Inv State.reset

/-- Every step keeps the invariant (R11, R12, R17, R23, R140, R160, R167, R190 and the ranges of R10), from every state that has it. In
`Diag` the invariant's state is the reset state with the model's values for the five variables R215 leaves unspecified (log 3). -/
def Obligations.EveryStepKeepsInvariant : Prop :=
  ∀ s t : State, Inv s → step s = .next t → Inv t

/-- No well-formed operation ever stops the block (R68, R94, R180, R214): in every state of the invariant it has a next state; so no
down-counter goes below 0. -/
def Obligations.EveryOperationCompletes : Prop :=
  ∀ (i : Instr) (s : State), Inv s → i.wellFormed s.cfg = true → ∃ t, exec i s = .next t

/-- R25, R191: no operation changes the parameters or what is pending, and what has been emitted is never taken back. -/
def Obligations.ParametersConstantTraceGrows : Prop :=
  ∀ (i : Instr) (s t : State), exec i s = .next t → t.cfg = s.cfg ∧ t.stim = s.stim ∧ s.trace <+: t.trace

/-- R151 and R160, with the latches of R17 and R22: all control transfers of the pumps, the command sequencer and the keep-alive task. A
stopped loop and a latched cancellation end only by a reset; the sequencer goes from `Idle` to `WaitLock` by `MOVE_TO`, to `Burst`
by `GRANT(Cmd)`, back to `Idle` by a tick's (or the operation's own, log 7) last write; the task goes from `Waiting` to `FiringWait`
by the tick that runs the timer out, to `FiringBurst` by `GRANT(Ka)`, back to `Waiting` by the last write, to `Stopped` by `CANCEL`;
otherwise only a reset moves them. -/
def Obligations.ControlTransfers : Prop :=
  ∀ (i : Instr) (s t : State), exec i s = .next t → ¬ Resets i s →
    (s.cancel = true → t.cancel = true) ∧
    (s.runH = .stopped → t.runH = .stopped) ∧ (s.runC = .stopped → t.runC = .stopped) ∧
    (s.runH = .running → t.runH = .stopped → isHandsetOp i ∧ s.cancel = true) ∧
    (s.runC = .running → t.runC = .stopped → isControllerOp i ∧ s.cancel = true) ∧
    (t.cmdState ≠ s.cmdState →
      (s.cmdState = .idle ∧ t.cmdState = .waitLock ∧ ∃ slot, i = .moveTo slot) ∨
      (s.cmdState = .waitLock ∧ t.cmdState = .burst ∧ i = .grantCmd) ∨
      (s.cmdState = .burst ∧ t.cmdState = .idle ∧ s.cmdN = 1 ∧
        (i = .tick ∨ i = .cmdSlot1 ∨ i = .cmdSlot2 ∨ i = .cmdSlot3 ∨ i = .cmdSlot4))) ∧
    (t.kaState ≠ s.kaState →
      (s.kaState = .waiting ∧ t.kaState = .firingWait ∧ s.kaTimer = 1 ∧ i = .tick) ∨
      (s.kaState = .firingWait ∧ t.kaState = .firingBurst ∧ i = .grantKa) ∨
      (s.kaState = .firingBurst ∧ t.kaState = .waiting ∧ s.kaN = 1 ∧ (i = .tick ∨ i = .keepalive)) ∨
      (t.kaState = .stopped ∧ i = .cancel))

/-- From R190: no operation changes `mode`; in `Diag` the state never changes at all, an operation can only emit or return something; and
what each input event does there. (A chunk longer than `CHUNK_MAX` is no `RX` event, R40.) That `RESET` is among these operations
rests on log 20 (it finds the same `INIT_OK`), that the internal and the generated rows are rests on log 8 and log 7. -/
def Obligations.DiagHaltsNormalOperation : Prop :=
  ∀ s : State, Inv s →
    (∀ (i : Instr) (t : State), exec i s = .next t → t.mode = s.mode) ∧
    (s.mode = .diag →
      (∀ (i : Instr) (t : State), exec i s = .next t → t = { s with trace := t.trace }) ∧
      (∀ (x : Line) (chunk : List Byte), chunk.length ≤ s.cfg.chunkMax → exec (rxInstr x chunk) s = .next s) ∧
      (∀ x : Line, exec (rxerrInstr x) s = .next s) ∧
      exec .tick s = .next { s with trace := s.trace ++ [.diag .initFail] } ∧
      (∀ slot : Byte, exec (.moveTo slot) s = .next { s with trace := s.trace ++ [.ret (.error .notRunning)] }) ∧
      (∀ b : Bool, exec (.setRemoteEnabled b) s = .next s) ∧
      exec .currentPosition s = .next { s with trace := s.trace ++ [.ret (.position ⟨0, 0⟩)] } ∧
      exec .cancel s = .next s ∧ exec .grantCmd s = .next s ∧ exec .grantKa s = .next s)

/-- R166: `ka_pending` decides nothing: an operation does the same with it set or clear, but for `ka_pending` itself. -/
def Obligations.PendingFlagIsIrrelevant : Prop :=
  ∀ (i : Instr) (s : State),
    mapNext forgetPending (exec i (forgetPending s)) = mapNext forgetPending (exec i s)

/-- R215: no behaviour depends on `cmd_slot` while no command is in progress, nor on a burst's counters outside that burst: an operation does
the same whatever they hold. -/
def Obligations.UnreadRegistersAreIrrelevant : Prop :=
  ∀ (i : Instr) (s : State),
    mapNext forgetUnread (exec i (forgetUnread s)) = mapNext forgetUnread (exec i s)

/-- R147, R173: `remote_en` gates `MOVE_TO` and nothing else. -/
def Obligations.RemoteBitGatesOnlyMoveTo : Prop :=
  ∀ (i : Instr) (s : State), (∀ slot, i ≠ .moveTo slot) →
    mapNext forgetRemote (exec i (forgetRemote s)) = mapNext forgetRemote (exec i s)

/-- R162: from `Waiting`, with no burst in the way and the watchdog's window longer, the interval runs out after exactly `ka_timer` ticks and
not before; nothing is emitted on the way. -/
def Obligations.KeepAliveExpiresExactly : Prop :=
  ∀ s : State, s.mode = .run → s.kaState = .waiting → s.cmdState ≠ .burst → 1 ≤ s.kaTimer → s.kaTimer < s.wdtCnt →
    (∀ n, n < s.kaTimer → ticks n s = .next { s with kaTimer := s.kaTimer - n, wdtCnt := s.wdtCnt - n }) ∧
    ticks s.kaTimer s = .next { s with kaState := .firingWait, kaTimer := 0, wdtCnt := s.wdtCnt - s.kaTimer }

/-- R144 to R146, R175: a granted command makes its five writes at the grant and every `SPACING` ticks after it, and the fifth ends it with the
line low, the bus free and `Ok`; `n` ticks after the grant there have been `1 + n / SPACING` writes and the bus is still held. -/
def Obligations.CommandBurstTiming : Prop :=
  ∀ s : State, Inv s → s.mode = .run → s.busOwner = .free → s.cmdState = .waitLock → 4 * s.cfg.spacing < s.wdtCnt →
    (∀ n, n < 4 * s.cfg.spacing → ∃ t, andThen (exec .grantCmd s) (ticks n) = .next t ∧
      t.trace = s.trace ++ .act true :: List.replicate (1 + n / s.cfg.spacing) (.txCtrl (slotFrame s.cmdSlot)) ∧
      t.busOwner = .cmd ∧ t.act = true) ∧
    (∃ t, andThen (exec .grantCmd s) (ticks (4 * s.cfg.spacing)) = .next t ∧
      t.trace = s.trace ++ .act true :: (List.replicate 5 (.txCtrl (slotFrame s.cmdSlot)) ++ [.act false, .ret .ok]) ∧
      t.busOwner = .free ∧ t.act = false ∧ t.cmdState = .idle)

/-- R163, R164, R175: the same for the keep-alive burst, which ends in `Waiting` with the interval restarted and returns nothing. -/
def Obligations.KeepAliveBurstTiming : Prop :=
  ∀ s : State, Inv s → s.mode = .run → s.busOwner = .free → s.kaState = .firingWait → 4 * s.cfg.spacing < s.wdtCnt →
    (∀ n, n < 4 * s.cfg.spacing → ∃ t, andThen (exec .grantKa s) (ticks n) = .next t ∧
      t.trace = s.trace ++ .act true :: List.replicate (1 + n / s.cfg.spacing) (.txCtrl encodeKeepalive) ∧
      t.busOwner = .ka ∧ t.act = true) ∧
    (∃ t, andThen (exec .grantKa s) (ticks (4 * s.cfg.spacing)) = .next t ∧
      t.trace = s.trace ++ .act true :: (List.replicate 5 (.txCtrl encodeKeepalive) ++ [.act false]) ∧
      t.busOwner = .free ∧ t.act = false ∧ t.kaState = .waiting ∧ t.kaTimer = s.cfg.kaInterval)

/-- R168, R170, R175: with nothing but ticks the watchdog resets the block after exactly `wdt_cnt` ticks, whatever bursts are under way: before
that there is no reset, and then every variable for which R211 gives a reset value has it and `HardReset` is the last output. That
`cmd_slot`, `cmd_n`, `cmd_sp`, `ka_n` and `ka_sp`, which R211 and R215 leave unspecified, then hold the values `State.resetOf`
names is the model's choice (log 3, unsafe); that the parameters, what is pending and what was emitted stay is log 20. -/
def Obligations.WatchdogResetsExactly : Prop :=
  ∀ s : State, Inv s → s.mode = .run →
    (∀ n, n < s.wdtCnt → ∃ t, ticks n s = .next t ∧ t.wdtCnt = s.wdtCnt - n ∧ Output.hardReset ∉ newOutputs s t) ∧
    (∃ t, ticks s.wdtCnt s = .next t ∧ t.trace.getLast? = some .hardReset ∧
      t = { State.resetOf s.cfg with stim := s.stim, trace := t.trace })

/-- What the constraints of R214 are for. `WDT_TIMEOUT` longer than the longest gap between `Ok` frames: no run whose gaps are so bounded
ends in a watchdog reset (R222), whatever else happens. `KA_INTERVAL` short enough (R224): with the bus given as soon as it is free,
the first keep-alive write comes within the cutoff, counted from the last activity (`KA_INTERVAL - ka_timer` ticks ago, R10), with
no command in the way, and with a command granted so late that its burst is in the way when the interval runs out. -/
def Obligations.ParameterConstraintsServe : Prop :=
  ∀ (s : State) (gap cutoff : Nat), Inv s → Serves s.cfg gap cutoff →
    (∀ (is : List Instr) (t : State), GapsAtMost gap (s.cfg.wdtTimeout - s.wdtCnt) is s → runOps is s = .next t →
      Output.hardReset ∉ newOutputs s t) ∧
    (s.mode = .run → s.busOwner = .free → s.kaState = .waiting → s.kaTimer < s.wdtCnt →
      ∃ t u, ticks s.kaTimer s = .next t ∧ exec .grantKa t = .next u ∧
        u.trace = s.trace ++ [.act true, .txCtrl encodeKeepalive] ∧
        s.cfg.kaInterval - s.kaTimer + s.kaTimer < cutoff) ∧
    (s.mode = .run → s.busOwner = .free → s.cmdState = .waitLock → s.kaState = .waiting →
      s.kaTimer ≤ 4 * s.cfg.spacing → 4 * s.cfg.spacing < s.wdtCnt →
      ∃ t u, andThen (exec .grantCmd s) (ticks (4 * s.cfg.spacing)) = .next t ∧ exec .grantKa t = .next u ∧
        u.trace = t.trace ++ [.act true, .txCtrl encodeKeepalive] ∧
        s.cfg.kaInterval - s.kaTimer + 4 * s.cfg.spacing < cutoff)
end

