-- ==== Sys2Proof/Laws/State.lean ====
section
/-! SUPPORT. One lemma per field and update of the state: what the update leaves, and what it writes. -/

namespace Sys2Proof.Machine

/-! ### `emit` -/

@[simp] theorem emit_cfg (o : Output) (s : State) : (emit o s).cfg = s.cfg := rfl
@[simp] theorem emit_bufH (o : Output) (s : State) : (emit o s).bufH = s.bufH := rfl
@[simp] theorem emit_bufC (o : Output) (s : State) : (emit o s).bufC = s.bufC := rfl
@[simp] theorem emit_pos (o : Output) (s : State) : (emit o s).pos = s.pos := rfl
@[simp] theorem emit_prevKeys (o : Output) (s : State) : (emit o s).prevKeys = s.prevKeys := rfl
@[simp] theorem emit_runH (o : Output) (s : State) : (emit o s).runH = s.runH := rfl
@[simp] theorem emit_runC (o : Output) (s : State) : (emit o s).runC = s.runC := rfl
@[simp] theorem emit_cmdState (o : Output) (s : State) : (emit o s).cmdState = s.cmdState := rfl
@[simp] theorem emit_cmdSlot (o : Output) (s : State) : (emit o s).cmdSlot = s.cmdSlot := rfl
@[simp] theorem emit_cmdN (o : Output) (s : State) : (emit o s).cmdN = s.cmdN := rfl
@[simp] theorem emit_cmdSp (o : Output) (s : State) : (emit o s).cmdSp = s.cmdSp := rfl
@[simp] theorem emit_kaState (o : Output) (s : State) : (emit o s).kaState = s.kaState := rfl
@[simp] theorem emit_kaTimer (o : Output) (s : State) : (emit o s).kaTimer = s.kaTimer := rfl
@[simp] theorem emit_kaPending (o : Output) (s : State) : (emit o s).kaPending = s.kaPending := rfl
@[simp] theorem emit_kaN (o : Output) (s : State) : (emit o s).kaN = s.kaN := rfl
@[simp] theorem emit_kaSp (o : Output) (s : State) : (emit o s).kaSp = s.kaSp := rfl
@[simp] theorem emit_busOwner (o : Output) (s : State) : (emit o s).busOwner = s.busOwner := rfl
@[simp] theorem emit_act (o : Output) (s : State) : (emit o s).act = s.act := rfl
@[simp] theorem emit_remoteEn (o : Output) (s : State) : (emit o s).remoteEn = s.remoteEn := rfl
@[simp] theorem emit_cancel (o : Output) (s : State) : (emit o s).cancel = s.cancel := rfl
@[simp] theorem emit_wdtCnt (o : Output) (s : State) : (emit o s).wdtCnt = s.wdtCnt := rfl
@[simp] theorem emit_mode (o : Output) (s : State) : (emit o s).mode = s.mode := rfl
@[simp] theorem emit_stim (o : Output) (s : State) : (emit o s).stim = s.stim := rfl
@[simp] theorem emit_trace (o : Output) (s : State) : (emit o s).trace = s.trace ++ [o] := rfl

/-! ### `raiseDiag` -/

@[simp] theorem raiseDiag_cfg (d : Diag) (s : State) : (raiseDiag d s).cfg = s.cfg := rfl
@[simp] theorem raiseDiag_bufH (d : Diag) (s : State) : (raiseDiag d s).bufH = s.bufH := rfl
@[simp] theorem raiseDiag_bufC (d : Diag) (s : State) : (raiseDiag d s).bufC = s.bufC := rfl
@[simp] theorem raiseDiag_pos (d : Diag) (s : State) : (raiseDiag d s).pos = s.pos := rfl
@[simp] theorem raiseDiag_prevKeys (d : Diag) (s : State) : (raiseDiag d s).prevKeys = s.prevKeys := rfl
@[simp] theorem raiseDiag_runH (d : Diag) (s : State) : (raiseDiag d s).runH = s.runH := rfl
@[simp] theorem raiseDiag_runC (d : Diag) (s : State) : (raiseDiag d s).runC = s.runC := rfl
@[simp] theorem raiseDiag_cmdState (d : Diag) (s : State) : (raiseDiag d s).cmdState = s.cmdState := rfl
@[simp] theorem raiseDiag_cmdSlot (d : Diag) (s : State) : (raiseDiag d s).cmdSlot = s.cmdSlot := rfl
@[simp] theorem raiseDiag_cmdN (d : Diag) (s : State) : (raiseDiag d s).cmdN = s.cmdN := rfl
@[simp] theorem raiseDiag_cmdSp (d : Diag) (s : State) : (raiseDiag d s).cmdSp = s.cmdSp := rfl
@[simp] theorem raiseDiag_kaState (d : Diag) (s : State) : (raiseDiag d s).kaState = s.kaState := rfl
@[simp] theorem raiseDiag_kaTimer (d : Diag) (s : State) : (raiseDiag d s).kaTimer = s.kaTimer := rfl
@[simp] theorem raiseDiag_kaPending (d : Diag) (s : State) : (raiseDiag d s).kaPending = s.kaPending := rfl
@[simp] theorem raiseDiag_kaN (d : Diag) (s : State) : (raiseDiag d s).kaN = s.kaN := rfl
@[simp] theorem raiseDiag_kaSp (d : Diag) (s : State) : (raiseDiag d s).kaSp = s.kaSp := rfl
@[simp] theorem raiseDiag_busOwner (d : Diag) (s : State) : (raiseDiag d s).busOwner = s.busOwner := rfl
@[simp] theorem raiseDiag_act (d : Diag) (s : State) : (raiseDiag d s).act = s.act := rfl
@[simp] theorem raiseDiag_remoteEn (d : Diag) (s : State) : (raiseDiag d s).remoteEn = s.remoteEn := rfl
@[simp] theorem raiseDiag_cancel (d : Diag) (s : State) : (raiseDiag d s).cancel = s.cancel := rfl
@[simp] theorem raiseDiag_wdtCnt (d : Diag) (s : State) : (raiseDiag d s).wdtCnt = s.wdtCnt := rfl
@[simp] theorem raiseDiag_mode (d : Diag) (s : State) : (raiseDiag d s).mode = s.mode := rfl
@[simp] theorem raiseDiag_stim (d : Diag) (s : State) : (raiseDiag d s).stim = s.stim := rfl
@[simp] theorem raiseDiag_trace (d : Diag) (s : State) : (raiseDiag d s).trace = s.trace ++ [.diag d] := rfl

/-! ### `giveBack` -/

@[simp] theorem giveBack_cfg (r : Result) (s : State) : (giveBack r s).cfg = s.cfg := rfl
@[simp] theorem giveBack_bufH (r : Result) (s : State) : (giveBack r s).bufH = s.bufH := rfl
@[simp] theorem giveBack_bufC (r : Result) (s : State) : (giveBack r s).bufC = s.bufC := rfl
@[simp] theorem giveBack_pos (r : Result) (s : State) : (giveBack r s).pos = s.pos := rfl
@[simp] theorem giveBack_prevKeys (r : Result) (s : State) : (giveBack r s).prevKeys = s.prevKeys := rfl
@[simp] theorem giveBack_runH (r : Result) (s : State) : (giveBack r s).runH = s.runH := rfl
@[simp] theorem giveBack_runC (r : Result) (s : State) : (giveBack r s).runC = s.runC := rfl
@[simp] theorem giveBack_cmdState (r : Result) (s : State) : (giveBack r s).cmdState = s.cmdState := rfl
@[simp] theorem giveBack_cmdSlot (r : Result) (s : State) : (giveBack r s).cmdSlot = s.cmdSlot := rfl
@[simp] theorem giveBack_cmdN (r : Result) (s : State) : (giveBack r s).cmdN = s.cmdN := rfl
@[simp] theorem giveBack_cmdSp (r : Result) (s : State) : (giveBack r s).cmdSp = s.cmdSp := rfl
@[simp] theorem giveBack_kaState (r : Result) (s : State) : (giveBack r s).kaState = s.kaState := rfl
@[simp] theorem giveBack_kaTimer (r : Result) (s : State) : (giveBack r s).kaTimer = s.kaTimer := rfl
@[simp] theorem giveBack_kaPending (r : Result) (s : State) : (giveBack r s).kaPending = s.kaPending := rfl
@[simp] theorem giveBack_kaN (r : Result) (s : State) : (giveBack r s).kaN = s.kaN := rfl
@[simp] theorem giveBack_kaSp (r : Result) (s : State) : (giveBack r s).kaSp = s.kaSp := rfl
@[simp] theorem giveBack_busOwner (r : Result) (s : State) : (giveBack r s).busOwner = s.busOwner := rfl
@[simp] theorem giveBack_act (r : Result) (s : State) : (giveBack r s).act = s.act := rfl
@[simp] theorem giveBack_remoteEn (r : Result) (s : State) : (giveBack r s).remoteEn = s.remoteEn := rfl
@[simp] theorem giveBack_cancel (r : Result) (s : State) : (giveBack r s).cancel = s.cancel := rfl
@[simp] theorem giveBack_wdtCnt (r : Result) (s : State) : (giveBack r s).wdtCnt = s.wdtCnt := rfl
@[simp] theorem giveBack_mode (r : Result) (s : State) : (giveBack r s).mode = s.mode := rfl
@[simp] theorem giveBack_stim (r : Result) (s : State) : (giveBack r s).stim = s.stim := rfl
@[simp] theorem giveBack_trace (r : Result) (s : State) : (giveBack r s).trace = s.trace ++ [.ret r] := rfl

/-! ### `setBuf` -/

@[simp] theorem setBuf_cfg (x : Line) (b : List Byte) (s : State) : (setBuf x b s).cfg = s.cfg := by cases x <;> rfl
@[simp] theorem setBuf_bufH (x : Line) (b : List Byte) (s : State) : (setBuf x b s).bufH = (if x = .H then b else s.bufH) := by cases x <;> rfl
@[simp] theorem setBuf_bufC (x : Line) (b : List Byte) (s : State) : (setBuf x b s).bufC = (if x = .C then b else s.bufC) := by cases x <;> rfl
@[simp] theorem setBuf_pos (x : Line) (b : List Byte) (s : State) : (setBuf x b s).pos = s.pos := by cases x <;> rfl
@[simp] theorem setBuf_prevKeys (x : Line) (b : List Byte) (s : State) : (setBuf x b s).prevKeys = s.prevKeys := by cases x <;> rfl
@[simp] theorem setBuf_runH (x : Line) (b : List Byte) (s : State) : (setBuf x b s).runH = s.runH := by cases x <;> rfl
@[simp] theorem setBuf_runC (x : Line) (b : List Byte) (s : State) : (setBuf x b s).runC = s.runC := by cases x <;> rfl
@[simp] theorem setBuf_cmdState (x : Line) (b : List Byte) (s : State) : (setBuf x b s).cmdState = s.cmdState := by cases x <;> rfl
@[simp] theorem setBuf_cmdSlot (x : Line) (b : List Byte) (s : State) : (setBuf x b s).cmdSlot = s.cmdSlot := by cases x <;> rfl
@[simp] theorem setBuf_cmdN (x : Line) (b : List Byte) (s : State) : (setBuf x b s).cmdN = s.cmdN := by cases x <;> rfl
@[simp] theorem setBuf_cmdSp (x : Line) (b : List Byte) (s : State) : (setBuf x b s).cmdSp = s.cmdSp := by cases x <;> rfl
@[simp] theorem setBuf_kaState (x : Line) (b : List Byte) (s : State) : (setBuf x b s).kaState = s.kaState := by cases x <;> rfl
@[simp] theorem setBuf_kaTimer (x : Line) (b : List Byte) (s : State) : (setBuf x b s).kaTimer = s.kaTimer := by cases x <;> rfl
@[simp] theorem setBuf_kaPending (x : Line) (b : List Byte) (s : State) : (setBuf x b s).kaPending = s.kaPending := by cases x <;> rfl
@[simp] theorem setBuf_kaN (x : Line) (b : List Byte) (s : State) : (setBuf x b s).kaN = s.kaN := by cases x <;> rfl
@[simp] theorem setBuf_kaSp (x : Line) (b : List Byte) (s : State) : (setBuf x b s).kaSp = s.kaSp := by cases x <;> rfl
@[simp] theorem setBuf_busOwner (x : Line) (b : List Byte) (s : State) : (setBuf x b s).busOwner = s.busOwner := by cases x <;> rfl
@[simp] theorem setBuf_act (x : Line) (b : List Byte) (s : State) : (setBuf x b s).act = s.act := by cases x <;> rfl
@[simp] theorem setBuf_remoteEn (x : Line) (b : List Byte) (s : State) : (setBuf x b s).remoteEn = s.remoteEn := by cases x <;> rfl
@[simp] theorem setBuf_cancel (x : Line) (b : List Byte) (s : State) : (setBuf x b s).cancel = s.cancel := by cases x <;> rfl
@[simp] theorem setBuf_wdtCnt (x : Line) (b : List Byte) (s : State) : (setBuf x b s).wdtCnt = s.wdtCnt := by cases x <;> rfl
@[simp] theorem setBuf_mode (x : Line) (b : List Byte) (s : State) : (setBuf x b s).mode = s.mode := by cases x <;> rfl
@[simp] theorem setBuf_stim (x : Line) (b : List Byte) (s : State) : (setBuf x b s).stim = s.stim := by cases x <;> rfl
@[simp] theorem setBuf_trace (x : Line) (b : List Byte) (s : State) : (setBuf x b s).trace = s.trace := by cases x <;> rfl

/-! ### `setRun` -/

@[simp] theorem setRun_cfg (x : Line) (r : RunState) (s : State) : (setRun x r s).cfg = s.cfg := by cases x <;> rfl
@[simp] theorem setRun_bufH (x : Line) (r : RunState) (s : State) : (setRun x r s).bufH = s.bufH := by cases x <;> rfl
@[simp] theorem setRun_bufC (x : Line) (r : RunState) (s : State) : (setRun x r s).bufC = s.bufC := by cases x <;> rfl
@[simp] theorem setRun_pos (x : Line) (r : RunState) (s : State) : (setRun x r s).pos = s.pos := by cases x <;> rfl
@[simp] theorem setRun_prevKeys (x : Line) (r : RunState) (s : State) : (setRun x r s).prevKeys = s.prevKeys := by cases x <;> rfl
@[simp] theorem setRun_runH (x : Line) (r : RunState) (s : State) : (setRun x r s).runH = (if x = .H then r else s.runH) := by cases x <;> rfl
@[simp] theorem setRun_runC (x : Line) (r : RunState) (s : State) : (setRun x r s).runC = (if x = .C then r else s.runC) := by cases x <;> rfl
@[simp] theorem setRun_cmdState (x : Line) (r : RunState) (s : State) : (setRun x r s).cmdState = s.cmdState := by cases x <;> rfl
@[simp] theorem setRun_cmdSlot (x : Line) (r : RunState) (s : State) : (setRun x r s).cmdSlot = s.cmdSlot := by cases x <;> rfl
@[simp] theorem setRun_cmdN (x : Line) (r : RunState) (s : State) : (setRun x r s).cmdN = s.cmdN := by cases x <;> rfl
@[simp] theorem setRun_cmdSp (x : Line) (r : RunState) (s : State) : (setRun x r s).cmdSp = s.cmdSp := by cases x <;> rfl
@[simp] theorem setRun_kaState (x : Line) (r : RunState) (s : State) : (setRun x r s).kaState = s.kaState := by cases x <;> rfl
@[simp] theorem setRun_kaTimer (x : Line) (r : RunState) (s : State) : (setRun x r s).kaTimer = s.kaTimer := by cases x <;> rfl
@[simp] theorem setRun_kaPending (x : Line) (r : RunState) (s : State) : (setRun x r s).kaPending = s.kaPending := by cases x <;> rfl
@[simp] theorem setRun_kaN (x : Line) (r : RunState) (s : State) : (setRun x r s).kaN = s.kaN := by cases x <;> rfl
@[simp] theorem setRun_kaSp (x : Line) (r : RunState) (s : State) : (setRun x r s).kaSp = s.kaSp := by cases x <;> rfl
@[simp] theorem setRun_busOwner (x : Line) (r : RunState) (s : State) : (setRun x r s).busOwner = s.busOwner := by cases x <;> rfl
@[simp] theorem setRun_act (x : Line) (r : RunState) (s : State) : (setRun x r s).act = s.act := by cases x <;> rfl
@[simp] theorem setRun_remoteEn (x : Line) (r : RunState) (s : State) : (setRun x r s).remoteEn = s.remoteEn := by cases x <;> rfl
@[simp] theorem setRun_cancel (x : Line) (r : RunState) (s : State) : (setRun x r s).cancel = s.cancel := by cases x <;> rfl
@[simp] theorem setRun_wdtCnt (x : Line) (r : RunState) (s : State) : (setRun x r s).wdtCnt = s.wdtCnt := by cases x <;> rfl
@[simp] theorem setRun_mode (x : Line) (r : RunState) (s : State) : (setRun x r s).mode = s.mode := by cases x <;> rfl
@[simp] theorem setRun_stim (x : Line) (r : RunState) (s : State) : (setRun x r s).stim = s.stim := by cases x <;> rfl
@[simp] theorem setRun_trace (x : Line) (r : RunState) (s : State) : (setRun x r s).trace = s.trace := by cases x <;> rfl

/-! ### `feed` -/

@[simp] theorem feed_cfg (s : State) : (feed s).cfg = s.cfg := rfl
@[simp] theorem feed_bufH (s : State) : (feed s).bufH = s.bufH := rfl
@[simp] theorem feed_bufC (s : State) : (feed s).bufC = s.bufC := rfl
@[simp] theorem feed_pos (s : State) : (feed s).pos = s.pos := rfl
@[simp] theorem feed_prevKeys (s : State) : (feed s).prevKeys = s.prevKeys := rfl
@[simp] theorem feed_runH (s : State) : (feed s).runH = s.runH := rfl
@[simp] theorem feed_runC (s : State) : (feed s).runC = s.runC := rfl
@[simp] theorem feed_cmdState (s : State) : (feed s).cmdState = s.cmdState := rfl
@[simp] theorem feed_cmdSlot (s : State) : (feed s).cmdSlot = s.cmdSlot := rfl
@[simp] theorem feed_cmdN (s : State) : (feed s).cmdN = s.cmdN := rfl
@[simp] theorem feed_cmdSp (s : State) : (feed s).cmdSp = s.cmdSp := rfl
@[simp] theorem feed_kaState (s : State) : (feed s).kaState = s.kaState := rfl
@[simp] theorem feed_kaTimer (s : State) : (feed s).kaTimer = s.kaTimer := rfl
@[simp] theorem feed_kaPending (s : State) : (feed s).kaPending = s.kaPending := rfl
@[simp] theorem feed_kaN (s : State) : (feed s).kaN = s.kaN := rfl
@[simp] theorem feed_kaSp (s : State) : (feed s).kaSp = s.kaSp := rfl
@[simp] theorem feed_busOwner (s : State) : (feed s).busOwner = s.busOwner := rfl
@[simp] theorem feed_act (s : State) : (feed s).act = s.act := rfl
@[simp] theorem feed_remoteEn (s : State) : (feed s).remoteEn = s.remoteEn := rfl
@[simp] theorem feed_cancel (s : State) : (feed s).cancel = s.cancel := rfl
@[simp] theorem feed_wdtCnt (s : State) : (feed s).wdtCnt = s.cfg.wdtTimeout := rfl
@[simp] theorem feed_mode (s : State) : (feed s).mode = s.mode := rfl
@[simp] theorem feed_stim (s : State) : (feed s).stim = s.stim := rfl
@[simp] theorem feed_trace (s : State) : (feed s).trace = s.trace := rfl

/-! ### `resetBlock` -/

@[simp] theorem resetBlock_cfg (s : State) : (resetBlock s).cfg = s.cfg := rfl
@[simp] theorem resetBlock_bufH (s : State) : (resetBlock s).bufH = [] := rfl
@[simp] theorem resetBlock_bufC (s : State) : (resetBlock s).bufC = [] := rfl
@[simp] theorem resetBlock_pos (s : State) : (resetBlock s).pos = ⟨0, 0⟩ := rfl
@[simp] theorem resetBlock_prevKeys (s : State) : (resetBlock s).prevKeys = 0#7 := rfl
@[simp] theorem resetBlock_runH (s : State) : (resetBlock s).runH = .running := rfl
@[simp] theorem resetBlock_runC (s : State) : (resetBlock s).runC = .running := rfl
@[simp] theorem resetBlock_cmdState (s : State) : (resetBlock s).cmdState = .idle := rfl
@[simp] theorem resetBlock_cmdSlot (s : State) : (resetBlock s).cmdSlot = .s1 := rfl
@[simp] theorem resetBlock_cmdN (s : State) : (resetBlock s).cmdN = 0 := rfl
@[simp] theorem resetBlock_cmdSp (s : State) : (resetBlock s).cmdSp = 0 := rfl
@[simp] theorem resetBlock_kaState (s : State) : (resetBlock s).kaState = .waiting := rfl
@[simp] theorem resetBlock_kaTimer (s : State) : (resetBlock s).kaTimer = s.cfg.kaInterval := rfl
@[simp] theorem resetBlock_kaPending (s : State) : (resetBlock s).kaPending = false := rfl
@[simp] theorem resetBlock_kaN (s : State) : (resetBlock s).kaN = 0 := rfl
@[simp] theorem resetBlock_kaSp (s : State) : (resetBlock s).kaSp = 0 := rfl
@[simp] theorem resetBlock_busOwner (s : State) : (resetBlock s).busOwner = .free := rfl
@[simp] theorem resetBlock_act (s : State) : (resetBlock s).act = false := rfl
@[simp] theorem resetBlock_remoteEn (s : State) : (resetBlock s).remoteEn = s.cfg.remoteEnReset := rfl
@[simp] theorem resetBlock_cancel (s : State) : (resetBlock s).cancel = false := rfl
@[simp] theorem resetBlock_wdtCnt (s : State) : (resetBlock s).wdtCnt = s.cfg.wdtTimeout := rfl
@[simp] theorem resetBlock_mode (s : State) : (resetBlock s).mode = (if s.cfg.initOk then .run else .diag) := rfl
@[simp] theorem resetBlock_stim (s : State) : (resetBlock s).stim = s.stim := rfl
@[simp] theorem resetBlock_trace (s : State) : (resetBlock s).trace = s.trace := rfl

/-! ### `wdtExpire` -/

@[simp] theorem wdtExpire_cfg (s : State) : (wdtExpire s).cfg = s.cfg := rfl
@[simp] theorem wdtExpire_bufH (s : State) : (wdtExpire s).bufH = [] := rfl
@[simp] theorem wdtExpire_bufC (s : State) : (wdtExpire s).bufC = [] := rfl
@[simp] theorem wdtExpire_pos (s : State) : (wdtExpire s).pos = ⟨0, 0⟩ := rfl
@[simp] theorem wdtExpire_prevKeys (s : State) : (wdtExpire s).prevKeys = 0#7 := rfl
@[simp] theorem wdtExpire_runH (s : State) : (wdtExpire s).runH = .running := rfl
@[simp] theorem wdtExpire_runC (s : State) : (wdtExpire s).runC = .running := rfl
@[simp] theorem wdtExpire_cmdState (s : State) : (wdtExpire s).cmdState = .idle := rfl
@[simp] theorem wdtExpire_cmdSlot (s : State) : (wdtExpire s).cmdSlot = .s1 := rfl
@[simp] theorem wdtExpire_cmdN (s : State) : (wdtExpire s).cmdN = 0 := rfl
@[simp] theorem wdtExpire_cmdSp (s : State) : (wdtExpire s).cmdSp = 0 := rfl
@[simp] theorem wdtExpire_kaState (s : State) : (wdtExpire s).kaState = .waiting := rfl
@[simp] theorem wdtExpire_kaTimer (s : State) : (wdtExpire s).kaTimer = s.cfg.kaInterval := rfl
@[simp] theorem wdtExpire_kaPending (s : State) : (wdtExpire s).kaPending = false := rfl
@[simp] theorem wdtExpire_kaN (s : State) : (wdtExpire s).kaN = 0 := rfl
@[simp] theorem wdtExpire_kaSp (s : State) : (wdtExpire s).kaSp = 0 := rfl
@[simp] theorem wdtExpire_busOwner (s : State) : (wdtExpire s).busOwner = .free := rfl
@[simp] theorem wdtExpire_act (s : State) : (wdtExpire s).act = false := rfl
@[simp] theorem wdtExpire_remoteEn (s : State) : (wdtExpire s).remoteEn = s.cfg.remoteEnReset := rfl
@[simp] theorem wdtExpire_cancel (s : State) : (wdtExpire s).cancel = false := rfl
@[simp] theorem wdtExpire_wdtCnt (s : State) : (wdtExpire s).wdtCnt = s.cfg.wdtTimeout := rfl
@[simp] theorem wdtExpire_mode (s : State) : (wdtExpire s).mode = (if s.cfg.initOk then .run else .diag) := rfl
@[simp] theorem wdtExpire_stim (s : State) : (wdtExpire s).stim = s.stim := rfl
@[simp] theorem wdtExpire_trace (s : State) : (wdtExpire s).trace = s.trace ++ [.hardReset] := rfl

/-! ### `signalActivity` -/

@[simp] theorem signalActivity_cfg (s : State) : (signalActivity s).cfg = s.cfg := by unfold signalActivity; split <;> rfl
@[simp] theorem signalActivity_bufH (s : State) : (signalActivity s).bufH = s.bufH := by unfold signalActivity; split <;> rfl
@[simp] theorem signalActivity_bufC (s : State) : (signalActivity s).bufC = s.bufC := by unfold signalActivity; split <;> rfl
@[simp] theorem signalActivity_pos (s : State) : (signalActivity s).pos = s.pos := by unfold signalActivity; split <;> rfl
@[simp] theorem signalActivity_prevKeys (s : State) : (signalActivity s).prevKeys = s.prevKeys := by unfold signalActivity; split <;> rfl
@[simp] theorem signalActivity_runH (s : State) : (signalActivity s).runH = s.runH := by unfold signalActivity; split <;> rfl
@[simp] theorem signalActivity_runC (s : State) : (signalActivity s).runC = s.runC := by unfold signalActivity; split <;> rfl
@[simp] theorem signalActivity_cmdState (s : State) : (signalActivity s).cmdState = s.cmdState := by unfold signalActivity; split <;> rfl
@[simp] theorem signalActivity_cmdSlot (s : State) : (signalActivity s).cmdSlot = s.cmdSlot := by unfold signalActivity; split <;> rfl
@[simp] theorem signalActivity_cmdN (s : State) : (signalActivity s).cmdN = s.cmdN := by unfold signalActivity; split <;> rfl
@[simp] theorem signalActivity_cmdSp (s : State) : (signalActivity s).cmdSp = s.cmdSp := by unfold signalActivity; split <;> rfl
@[simp] theorem signalActivity_kaState (s : State) : (signalActivity s).kaState = s.kaState := by unfold signalActivity; split <;> rfl
@[simp] theorem signalActivity_kaTimer (s : State) : (signalActivity s).kaTimer = (if s.kaState = .waiting then s.cfg.kaInterval else s.kaTimer) := by unfold signalActivity; split <;> simp_all
@[simp] theorem signalActivity_kaPending (s : State) : (signalActivity s).kaPending = (if s.kaState = .waiting then s.kaPending else true) := by unfold signalActivity; split <;> simp_all
@[simp] theorem signalActivity_kaN (s : State) : (signalActivity s).kaN = s.kaN := by unfold signalActivity; split <;> rfl
@[simp] theorem signalActivity_kaSp (s : State) : (signalActivity s).kaSp = s.kaSp := by unfold signalActivity; split <;> rfl
@[simp] theorem signalActivity_busOwner (s : State) : (signalActivity s).busOwner = s.busOwner := by unfold signalActivity; split <;> rfl
@[simp] theorem signalActivity_act (s : State) : (signalActivity s).act = s.act := by unfold signalActivity; split <;> rfl
@[simp] theorem signalActivity_remoteEn (s : State) : (signalActivity s).remoteEn = s.remoteEn := by unfold signalActivity; split <;> rfl
@[simp] theorem signalActivity_cancel (s : State) : (signalActivity s).cancel = s.cancel := by unfold signalActivity; split <;> rfl
@[simp] theorem signalActivity_wdtCnt (s : State) : (signalActivity s).wdtCnt = s.wdtCnt := by unfold signalActivity; split <;> rfl
@[simp] theorem signalActivity_mode (s : State) : (signalActivity s).mode = s.mode := by unfold signalActivity; split <;> rfl
@[simp] theorem signalActivity_stim (s : State) : (signalActivity s).stim = s.stim := by unfold signalActivity; split <;> rfl
@[simp] theorem signalActivity_trace (s : State) : (signalActivity s).trace = s.trace := by unfold signalActivity; split <;> rfl

/-! ### `startCmdBurst` -/

@[simp] theorem startCmdBurst_cfg (s : State) : (startCmdBurst s).cfg = s.cfg := rfl
@[simp] theorem startCmdBurst_bufH (s : State) : (startCmdBurst s).bufH = s.bufH := rfl
@[simp] theorem startCmdBurst_bufC (s : State) : (startCmdBurst s).bufC = s.bufC := rfl
@[simp] theorem startCmdBurst_pos (s : State) : (startCmdBurst s).pos = s.pos := rfl
@[simp] theorem startCmdBurst_prevKeys (s : State) : (startCmdBurst s).prevKeys = s.prevKeys := rfl
@[simp] theorem startCmdBurst_runH (s : State) : (startCmdBurst s).runH = s.runH := rfl
@[simp] theorem startCmdBurst_runC (s : State) : (startCmdBurst s).runC = s.runC := rfl
@[simp] theorem startCmdBurst_cmdState (s : State) : (startCmdBurst s).cmdState = .burst := rfl
@[simp] theorem startCmdBurst_cmdSlot (s : State) : (startCmdBurst s).cmdSlot = s.cmdSlot := rfl
@[simp] theorem startCmdBurst_cmdN (s : State) : (startCmdBurst s).cmdN = 4 := rfl
@[simp] theorem startCmdBurst_cmdSp (s : State) : (startCmdBurst s).cmdSp = s.cfg.spacing := rfl
@[simp] theorem startCmdBurst_kaState (s : State) : (startCmdBurst s).kaState = s.kaState := rfl
@[simp] theorem startCmdBurst_kaTimer (s : State) : (startCmdBurst s).kaTimer = s.kaTimer := rfl
@[simp] theorem startCmdBurst_kaPending (s : State) : (startCmdBurst s).kaPending = s.kaPending := rfl
@[simp] theorem startCmdBurst_kaN (s : State) : (startCmdBurst s).kaN = s.kaN := rfl
@[simp] theorem startCmdBurst_kaSp (s : State) : (startCmdBurst s).kaSp = s.kaSp := rfl
@[simp] theorem startCmdBurst_busOwner (s : State) : (startCmdBurst s).busOwner = .cmd := rfl
@[simp] theorem startCmdBurst_act (s : State) : (startCmdBurst s).act = true := rfl
@[simp] theorem startCmdBurst_remoteEn (s : State) : (startCmdBurst s).remoteEn = s.remoteEn := rfl
@[simp] theorem startCmdBurst_cancel (s : State) : (startCmdBurst s).cancel = s.cancel := rfl
@[simp] theorem startCmdBurst_wdtCnt (s : State) : (startCmdBurst s).wdtCnt = s.wdtCnt := rfl
@[simp] theorem startCmdBurst_mode (s : State) : (startCmdBurst s).mode = s.mode := rfl
@[simp] theorem startCmdBurst_stim (s : State) : (startCmdBurst s).stim = s.stim := rfl
@[simp] theorem startCmdBurst_trace (s : State) : (startCmdBurst s).trace = s.trace ++ [.act true] ++ [.txCtrl (slotFrame s.cmdSlot)] := rfl

/-! ### `startKaBurst` -/

@[simp] theorem startKaBurst_cfg (s : State) : (startKaBurst s).cfg = s.cfg := rfl
@[simp] theorem startKaBurst_bufH (s : State) : (startKaBurst s).bufH = s.bufH := rfl
@[simp] theorem startKaBurst_bufC (s : State) : (startKaBurst s).bufC = s.bufC := rfl
@[simp] theorem startKaBurst_pos (s : State) : (startKaBurst s).pos = s.pos := rfl
@[simp] theorem startKaBurst_prevKeys (s : State) : (startKaBurst s).prevKeys = s.prevKeys := rfl
@[simp] theorem startKaBurst_runH (s : State) : (startKaBurst s).runH = s.runH := rfl
@[simp] theorem startKaBurst_runC (s : State) : (startKaBurst s).runC = s.runC := rfl
@[simp] theorem startKaBurst_cmdState (s : State) : (startKaBurst s).cmdState = s.cmdState := rfl
@[simp] theorem startKaBurst_cmdSlot (s : State) : (startKaBurst s).cmdSlot = s.cmdSlot := rfl
@[simp] theorem startKaBurst_cmdN (s : State) : (startKaBurst s).cmdN = s.cmdN := rfl
@[simp] theorem startKaBurst_cmdSp (s : State) : (startKaBurst s).cmdSp = s.cmdSp := rfl
@[simp] theorem startKaBurst_kaState (s : State) : (startKaBurst s).kaState = .firingBurst := rfl
@[simp] theorem startKaBurst_kaTimer (s : State) : (startKaBurst s).kaTimer = s.kaTimer := rfl
@[simp] theorem startKaBurst_kaPending (s : State) : (startKaBurst s).kaPending = s.kaPending := rfl
@[simp] theorem startKaBurst_kaN (s : State) : (startKaBurst s).kaN = 4 := rfl
@[simp] theorem startKaBurst_kaSp (s : State) : (startKaBurst s).kaSp = s.cfg.spacing := rfl
@[simp] theorem startKaBurst_busOwner (s : State) : (startKaBurst s).busOwner = .ka := rfl
@[simp] theorem startKaBurst_act (s : State) : (startKaBurst s).act = true := rfl
@[simp] theorem startKaBurst_remoteEn (s : State) : (startKaBurst s).remoteEn = s.remoteEn := rfl
@[simp] theorem startKaBurst_cancel (s : State) : (startKaBurst s).cancel = s.cancel := rfl
@[simp] theorem startKaBurst_wdtCnt (s : State) : (startKaBurst s).wdtCnt = s.wdtCnt := rfl
@[simp] theorem startKaBurst_mode (s : State) : (startKaBurst s).mode = s.mode := rfl
@[simp] theorem startKaBurst_stim (s : State) : (startKaBurst s).stim = s.stim := rfl
@[simp] theorem startKaBurst_trace (s : State) : (startKaBurst s).trace = s.trace ++ [.act true] ++ [.txCtrl encodeKeepalive] := rfl

/-! ### `endCmdBurst` -/

@[simp] theorem endCmdBurst_cfg (s : State) : (endCmdBurst s).cfg = s.cfg := by unfold endCmdBurst; simp
@[simp] theorem endCmdBurst_bufH (s : State) : (endCmdBurst s).bufH = s.bufH := by unfold endCmdBurst; simp
@[simp] theorem endCmdBurst_bufC (s : State) : (endCmdBurst s).bufC = s.bufC := by unfold endCmdBurst; simp
@[simp] theorem endCmdBurst_pos (s : State) : (endCmdBurst s).pos = s.pos := by unfold endCmdBurst; simp
@[simp] theorem endCmdBurst_prevKeys (s : State) : (endCmdBurst s).prevKeys = s.prevKeys := by unfold endCmdBurst; simp
@[simp] theorem endCmdBurst_runH (s : State) : (endCmdBurst s).runH = s.runH := by unfold endCmdBurst; simp
@[simp] theorem endCmdBurst_runC (s : State) : (endCmdBurst s).runC = s.runC := by unfold endCmdBurst; simp
@[simp] theorem endCmdBurst_cmdState (s : State) : (endCmdBurst s).cmdState = .idle := by unfold endCmdBurst; simp
@[simp] theorem endCmdBurst_cmdSlot (s : State) : (endCmdBurst s).cmdSlot = s.cmdSlot := by unfold endCmdBurst; simp
@[simp] theorem endCmdBurst_cmdN (s : State) : (endCmdBurst s).cmdN = s.cmdN := by unfold endCmdBurst; simp
@[simp] theorem endCmdBurst_cmdSp (s : State) : (endCmdBurst s).cmdSp = s.cmdSp := by unfold endCmdBurst; simp
@[simp] theorem endCmdBurst_kaState (s : State) : (endCmdBurst s).kaState = s.kaState := by unfold endCmdBurst; simp
@[simp] theorem endCmdBurst_kaTimer (s : State) : (endCmdBurst s).kaTimer = (if s.kaState = .waiting then s.cfg.kaInterval else s.kaTimer) := by unfold endCmdBurst; simp
@[simp] theorem endCmdBurst_kaPending (s : State) : (endCmdBurst s).kaPending = (if s.kaState = .waiting then s.kaPending else true) := by unfold endCmdBurst; simp
@[simp] theorem endCmdBurst_kaN (s : State) : (endCmdBurst s).kaN = s.kaN := by unfold endCmdBurst; simp
@[simp] theorem endCmdBurst_kaSp (s : State) : (endCmdBurst s).kaSp = s.kaSp := by unfold endCmdBurst; simp
@[simp] theorem endCmdBurst_busOwner (s : State) : (endCmdBurst s).busOwner = .free := by unfold endCmdBurst; simp
@[simp] theorem endCmdBurst_act (s : State) : (endCmdBurst s).act = false := by unfold endCmdBurst; simp
@[simp] theorem endCmdBurst_remoteEn (s : State) : (endCmdBurst s).remoteEn = s.remoteEn := by unfold endCmdBurst; simp
@[simp] theorem endCmdBurst_cancel (s : State) : (endCmdBurst s).cancel = s.cancel := by unfold endCmdBurst; simp
@[simp] theorem endCmdBurst_wdtCnt (s : State) : (endCmdBurst s).wdtCnt = s.wdtCnt := by unfold endCmdBurst; simp
@[simp] theorem endCmdBurst_mode (s : State) : (endCmdBurst s).mode = s.mode := by unfold endCmdBurst; simp
@[simp] theorem endCmdBurst_stim (s : State) : (endCmdBurst s).stim = s.stim := by unfold endCmdBurst; simp
@[simp] theorem endCmdBurst_trace (s : State) : (endCmdBurst s).trace = s.trace ++ [.act false] ++ [.ret .ok] := by unfold endCmdBurst; simp

/-! ### `endKaBurst` -/

@[simp] theorem endKaBurst_cfg (s : State) : (endKaBurst s).cfg = s.cfg := rfl
@[simp] theorem endKaBurst_bufH (s : State) : (endKaBurst s).bufH = s.bufH := rfl
@[simp] theorem endKaBurst_bufC (s : State) : (endKaBurst s).bufC = s.bufC := rfl
@[simp] theorem endKaBurst_pos (s : State) : (endKaBurst s).pos = s.pos := rfl
@[simp] theorem endKaBurst_prevKeys (s : State) : (endKaBurst s).prevKeys = s.prevKeys := rfl
@[simp] theorem endKaBurst_runH (s : State) : (endKaBurst s).runH = s.runH := rfl
@[simp] theorem endKaBurst_runC (s : State) : (endKaBurst s).runC = s.runC := rfl
@[simp] theorem endKaBurst_cmdState (s : State) : (endKaBurst s).cmdState = s.cmdState := rfl
@[simp] theorem endKaBurst_cmdSlot (s : State) : (endKaBurst s).cmdSlot = s.cmdSlot := rfl
@[simp] theorem endKaBurst_cmdN (s : State) : (endKaBurst s).cmdN = s.cmdN := rfl
@[simp] theorem endKaBurst_cmdSp (s : State) : (endKaBurst s).cmdSp = s.cmdSp := rfl
@[simp] theorem endKaBurst_kaState (s : State) : (endKaBurst s).kaState = .waiting := rfl
@[simp] theorem endKaBurst_kaTimer (s : State) : (endKaBurst s).kaTimer = s.cfg.kaInterval := rfl
@[simp] theorem endKaBurst_kaPending (s : State) : (endKaBurst s).kaPending = false := rfl
@[simp] theorem endKaBurst_kaN (s : State) : (endKaBurst s).kaN = s.kaN := rfl
@[simp] theorem endKaBurst_kaSp (s : State) : (endKaBurst s).kaSp = s.kaSp := rfl
@[simp] theorem endKaBurst_busOwner (s : State) : (endKaBurst s).busOwner = .free := rfl
@[simp] theorem endKaBurst_act (s : State) : (endKaBurst s).act = false := rfl
@[simp] theorem endKaBurst_remoteEn (s : State) : (endKaBurst s).remoteEn = s.remoteEn := rfl
@[simp] theorem endKaBurst_cancel (s : State) : (endKaBurst s).cancel = s.cancel := rfl
@[simp] theorem endKaBurst_wdtCnt (s : State) : (endKaBurst s).wdtCnt = s.wdtCnt := rfl
@[simp] theorem endKaBurst_mode (s : State) : (endKaBurst s).mode = s.mode := rfl
@[simp] theorem endKaBurst_stim (s : State) : (endKaBurst s).stim = s.stim := rfl
@[simp] theorem endKaBurst_trace (s : State) : (endKaBurst s).trace = s.trace ++ [.act false] := rfl

/-! ### `cancelRun` -/

@[simp] theorem cancelRun_cfg (s : State) : (cancelRun s).cfg = s.cfg := by unfold cancelRun cutKaBurst; split <;> rfl
@[simp] theorem cancelRun_bufH (s : State) : (cancelRun s).bufH = s.bufH := by unfold cancelRun cutKaBurst; split <;> rfl
@[simp] theorem cancelRun_bufC (s : State) : (cancelRun s).bufC = s.bufC := by unfold cancelRun cutKaBurst; split <;> rfl
@[simp] theorem cancelRun_pos (s : State) : (cancelRun s).pos = s.pos := by unfold cancelRun cutKaBurst; split <;> rfl
@[simp] theorem cancelRun_prevKeys (s : State) : (cancelRun s).prevKeys = s.prevKeys := by unfold cancelRun cutKaBurst; split <;> rfl
@[simp] theorem cancelRun_runH (s : State) : (cancelRun s).runH = s.runH := by unfold cancelRun cutKaBurst; split <;> rfl
@[simp] theorem cancelRun_runC (s : State) : (cancelRun s).runC = s.runC := by unfold cancelRun cutKaBurst; split <;> rfl
@[simp] theorem cancelRun_cmdState (s : State) : (cancelRun s).cmdState = s.cmdState := by unfold cancelRun cutKaBurst; split <;> rfl
@[simp] theorem cancelRun_cmdSlot (s : State) : (cancelRun s).cmdSlot = s.cmdSlot := by unfold cancelRun cutKaBurst; split <;> rfl
@[simp] theorem cancelRun_cmdN (s : State) : (cancelRun s).cmdN = s.cmdN := by unfold cancelRun cutKaBurst; split <;> rfl
@[simp] theorem cancelRun_cmdSp (s : State) : (cancelRun s).cmdSp = s.cmdSp := by unfold cancelRun cutKaBurst; split <;> rfl
@[simp] theorem cancelRun_kaState (s : State) : (cancelRun s).kaState = .stopped := by unfold cancelRun cutKaBurst; split <;> rfl
@[simp] theorem cancelRun_kaTimer (s : State) : (cancelRun s).kaTimer = s.kaTimer := by unfold cancelRun cutKaBurst; split <;> rfl
@[simp] theorem cancelRun_kaPending (s : State) : (cancelRun s).kaPending = s.kaPending := by unfold cancelRun cutKaBurst; split <;> rfl
@[simp] theorem cancelRun_kaN (s : State) : (cancelRun s).kaN = s.kaN := by unfold cancelRun cutKaBurst; split <;> rfl
@[simp] theorem cancelRun_kaSp (s : State) : (cancelRun s).kaSp = s.kaSp := by unfold cancelRun cutKaBurst; split <;> rfl
@[simp] theorem cancelRun_busOwner (s : State) : (cancelRun s).busOwner = (if s.kaState = .firingBurst then .free else s.busOwner) := by unfold cancelRun cutKaBurst; split <;> simp_all
@[simp] theorem cancelRun_act (s : State) : (cancelRun s).act = (if s.kaState = .firingBurst then false else s.act) := by unfold cancelRun cutKaBurst; split <;> simp_all
@[simp] theorem cancelRun_remoteEn (s : State) : (cancelRun s).remoteEn = s.remoteEn := by unfold cancelRun cutKaBurst; split <;> rfl
@[simp] theorem cancelRun_cancel (s : State) : (cancelRun s).cancel = true := by unfold cancelRun cutKaBurst; split <;> rfl
@[simp] theorem cancelRun_wdtCnt (s : State) : (cancelRun s).wdtCnt = s.wdtCnt := by unfold cancelRun cutKaBurst; split <;> rfl
@[simp] theorem cancelRun_mode (s : State) : (cancelRun s).mode = s.mode := by unfold cancelRun cutKaBurst; split <;> rfl
@[simp] theorem cancelRun_stim (s : State) : (cancelRun s).stim = s.stim := by unfold cancelRun cutKaBurst; split <;> rfl
@[simp] theorem cancelRun_trace (s : State) : (cancelRun s).trace = (if s.kaState = .firingBurst then s.trace ++ [.act false] else s.trace) := by unfold cancelRun cutKaBurst; split <;> simp_all

/-! ### `tickDiag` -/

@[simp] theorem tickDiag_cfg (s : State) : (tickDiag s).cfg = s.cfg := rfl
@[simp] theorem tickDiag_bufH (s : State) : (tickDiag s).bufH = s.bufH := rfl
@[simp] theorem tickDiag_bufC (s : State) : (tickDiag s).bufC = s.bufC := rfl
@[simp] theorem tickDiag_pos (s : State) : (tickDiag s).pos = s.pos := rfl
@[simp] theorem tickDiag_prevKeys (s : State) : (tickDiag s).prevKeys = s.prevKeys := rfl
@[simp] theorem tickDiag_runH (s : State) : (tickDiag s).runH = s.runH := rfl
@[simp] theorem tickDiag_runC (s : State) : (tickDiag s).runC = s.runC := rfl
@[simp] theorem tickDiag_cmdState (s : State) : (tickDiag s).cmdState = s.cmdState := rfl
@[simp] theorem tickDiag_cmdSlot (s : State) : (tickDiag s).cmdSlot = s.cmdSlot := rfl
@[simp] theorem tickDiag_cmdN (s : State) : (tickDiag s).cmdN = s.cmdN := rfl
@[simp] theorem tickDiag_cmdSp (s : State) : (tickDiag s).cmdSp = s.cmdSp := rfl
@[simp] theorem tickDiag_kaState (s : State) : (tickDiag s).kaState = s.kaState := rfl
@[simp] theorem tickDiag_kaTimer (s : State) : (tickDiag s).kaTimer = s.kaTimer := rfl
@[simp] theorem tickDiag_kaPending (s : State) : (tickDiag s).kaPending = s.kaPending := rfl
@[simp] theorem tickDiag_kaN (s : State) : (tickDiag s).kaN = s.kaN := rfl
@[simp] theorem tickDiag_kaSp (s : State) : (tickDiag s).kaSp = s.kaSp := rfl
@[simp] theorem tickDiag_busOwner (s : State) : (tickDiag s).busOwner = s.busOwner := rfl
@[simp] theorem tickDiag_act (s : State) : (tickDiag s).act = s.act := rfl
@[simp] theorem tickDiag_remoteEn (s : State) : (tickDiag s).remoteEn = s.remoteEn := rfl
@[simp] theorem tickDiag_cancel (s : State) : (tickDiag s).cancel = s.cancel := rfl
@[simp] theorem tickDiag_wdtCnt (s : State) : (tickDiag s).wdtCnt = s.cfg.wdtTimeout := rfl
@[simp] theorem tickDiag_mode (s : State) : (tickDiag s).mode = s.mode := rfl
@[simp] theorem tickDiag_stim (s : State) : (tickDiag s).stim = s.stim := rfl
@[simp] theorem tickDiag_trace (s : State) : (tickDiag s).trace = s.trace ++ [.diag .initFail] := rfl

/-! ### Buffers and loops by line -/

@[simp] theorem bufOf_setBuf_same (x : Line) (b : List Byte) (s : State) : bufOf x (setBuf x b s) = b := by cases x <;> rfl
@[simp] theorem runOf_setRun_same (x : Line) (r : RunState) (s : State) : runOf x (setRun x r s) = r := by cases x <;> rfl
@[simp] theorem runOf_setBuf (x y : Line) (b : List Byte) (s : State) : runOf x (setBuf y b s) = runOf x s := by
  cases x <;> cases y <;> rfl
@[simp] theorem bufOf_setRun (x y : Line) (r : RunState) (s : State) : bufOf x (setRun y r s) = bufOf x s := by
  cases x <;> cases y <;> rfl
@[simp] theorem setBuf_setBuf (x : Line) (a b : List Byte) (s : State) : setBuf x a (setBuf x b s) = setBuf x a s := by
  cases x <;> rfl
@[simp] theorem bufOf_H (s : State) : bufOf .H s = s.bufH := rfl
@[simp] theorem bufOf_C (s : State) : bufOf .C s = s.bufC := rfl
@[simp] theorem runOf_H (s : State) : runOf .H s = s.runH := rfl
@[simp] theorem runOf_C (s : State) : runOf .C s = s.runC := rfl
theorem setBuf_bufOf (x : Line) (s : State) : setBuf x (bufOf x s) s = s := by cases x <;> rfl

end Sys2Proof.Machine
end

