-- ==== Sys2Proof/Laws/Ops.lean ====
section
/-! SUPPORT. For each shared operation, once, everything it can do. Later proofs cite these and do not unfold the operations. -/

namespace Sys2Proof.Machine

/-! ### Outcomes -/

theorem andThen_next_iff {o : Out} {f : State → Out} {t : State} :
    andThen o f = .next t ↔ ∃ u, o = .next u ∧ f u = .next t := by
  cases o <;> simp [andThen]

@[simp] theorem andThen_next (s : State) (f : State → Out) : andThen (.next s) f = f s := rfl

theorem countDown_next_iff {c : Counter} {n : Nat} {f : Nat → Out} {t : State} :
    countDown c n f = .next t ↔ ∃ k, n = k + 1 ∧ f k = .next t := by
  cases n <;> simp [countDown]

@[simp] theorem countDown_succ (c : Counter) (n : Nat) (f : Nat → Out) : countDown c (n + 1) f = f n := rfl

@[simp] theorem countDown_zero (c : Counter) (f : Nat → Out) : countDown c 0 f = .fault (.counterUnderflow c) := rfl

theorem countDown_pos {c : Counter} {n : Nat} {f : Nat → Out} (h : 1 ≤ n) : countDown c n f = f (n - 1) := by
  cases n with
  | zero => omega
  | succ k => rfl

theorem runOps_cons (i : Instr) (is : List Instr) (s : State) : runOps (i :: is) s = andThen (exec i s) (runOps is) := rfl

theorem ticks_succ (n : Nat) (s : State) : ticks (n + 1) s = andThen (execTick s) (ticks n) := rfl

theorem ticks_add (m n : Nat) (s : State) : ticks (m + n) s = andThen (ticks m s) (ticks n) := by
  induction m generalizing s with
  | zero => rw [Nat.zero_add]; rfl
  | succ k ih =>
    rw [Nat.succ_add, ticks_succ, ticks_succ]
    cases execTick s with
    | next u => exact ih u
    | fault r => rfl
    | refused r => rfl

/-! ### What leaves the block -/

theorem newOutputs_of_append {s t : State} {out : List Output} (h : t.trace = s.trace ++ out) : newOutputs s t = out := by
  simp [newOutputs, h]

theorem newOutputs_same {s t : State} (h : t.trace = s.trace) : newOutputs s t = [] := by simp [newOutputs, h]

/-! ### The frame reader's pure parts -/

/-- Taking a chunk in, without the loop (R82, R83). -/
theorem takeIn_eq (start : Byte) (buf chunk : List Byte) :
    takeIn start buf chunk = if buf = [] then chunk.dropWhile (fun b => b != start) else buf ++ chunk := by
  induction chunk generalizing buf with
  | nil => cases buf <;> simp [takeIn]
  | cons x rest ih =>
    cases buf with
    | nil =>
      by_cases h : x = start
      · subst h; simp [takeIn, ih]
      · simp [takeIn, ih, h]
    | cons b bs => simp [takeIn, ih]

theorem takeIn_accumulated (x : Line) (chunk : List Byte) (s : State) :
    takeIn x.start (bufOf x s) chunk = accumulated x chunk s := takeIn_eq _ _ _

theorem head_dropWhile_ne (start : Byte) (l : List Byte) :
    l.dropWhile (fun b => b != start) = [] ∨ (l.dropWhile (fun b => b != start)).head? = some start := by
  induction l with
  | nil => simp
  | cons b rest ih =>
    by_cases h : b = start
    · simp [h]
    · rwa [List.dropWhile_cons_of_pos (by simpa using h)]

/-- What a chunk leaves is empty or headed by the start byte, if the buffer was (R11). -/
theorem accumulated_head (x : Line) (chunk : List Byte) (s : State) (h : bufOk x.start (bufOf x s)) :
    accumulated x chunk s = [] ∨ (accumulated x chunk s).head? = some x.start := by
  unfold accumulated
  split
  · exact head_dropWhile_ne _ _
  · rename_i hb
    rcases h.2 with h0 | h1
    · exact absurd h0 hb
    · right
      cases hbuf : bufOf x s with
      | nil => exact absurd hbuf hb
      | cons b bs => simpa [hbuf] using h1

theorem takeWhile_append_stop (start : Byte) (body rest : List Byte) (hb : ∀ b ∈ body, b ≠ start)
    (hr : rest = [] ∨ rest.head? = some start) : (body ++ rest).takeWhile (fun b => b != start) = body := by
  induction body with
  | nil =>
    rcases hr with h | h
    · simp [h]
    · cases rest with
      | nil => rfl
      | cons r rs => simp at h; simp [h]
  | cons b bs ih =>
    have h1 := hb b (by simp)
    simp [h1, ih (fun c hc => hb c (by simp [hc]))]

/-- The candidate of a buffer in which the next start byte stands after `body` (R85). -/
theorem candidate_eq (x : Line) (b : Byte) (body rest : List Byte) (hb : ∀ c ∈ body, c ≠ x.start)
    (hr : EndsCandidate x rest) : candidate x.start (b :: (body ++ rest)) = b :: body := by
  simp [candidate, takeWhile_append_stop x.start body rest hb hr]

theorem ckBad_eq (q : Payload) : ckBad q = decide (q.q3.toNat ≠ (q.q0.toNat + q.q1.toNat + q.q2.toNat) % 256) := by
  unfold ckBad ckValid checksum
  rw [Bool.eq_iff_iff]
  simp [BitVec.toNat_eq]

theorem ckValid_eq (q : Payload) : ckValid q = decide (q.q3.toNat = (q.q0.toNat + q.q1.toNat + q.q2.toNat) % 256) := by
  unfold ckValid checksum
  rw [Bool.eq_iff_iff]
  simp [BitVec.toNat_eq]

/-! ### Digits -/

theorem segOf_eq (b : Byte) : segOf b = b.extractLsb' 0 7 := by
  unfold segOf
  ext i hi
  simp [BitVec.getElem_setWidth]

theorem glyphVal_some_iff {g : Option Glyph} {v : Nat} : glyphVal g = some v ↔ ∃ n : Fin 10, g = some (.digit n) ∧ n.val = v := by
  cases g with
  | none => simp [glyphVal]
  | some g => cases g <;> simp [glyphVal]

theorem glyphVal_lt {g : Option Glyph} {v : Nat} (h : glyphVal g = some v) : v ≤ 9 := by
  obtain ⟨n, -, rfl⟩ := glyphVal_some_iff.mp h
  omega

/-- The scan of digits from index `i` on keeps the mantissa below the next power of ten and the exponent in -2..0 (R108). -/
theorem scanDigits_range (bs : List (Option Glyph × Bool)) (i : Nat) (seen : Bool) (e : Int) (m : Nat) (r : Nat × Int)
    (hi : i + bs.length ≤ 3) (he : e = -2 ∨ e = -1 ∨ e = 0) (h : scanDigits i seen e m bs = .ok r) :
    r.1 + 1 ≤ (m + 1) * 10 ^ bs.length ∧ (r.2 = -2 ∨ r.2 = -1 ∨ r.2 = 0) := by
  induction bs generalizing i seen e m with
  | nil => simp [scanDigits] at h; subst h; simpa using he
  | cons p rest ih =>
    obtain ⟨g, dp⟩ := p
    simp only [scanDigits] at h
    split at h
    · cases h
    · split at h
      · cases h
      · rename_i v hv
        have hv9 := glyphVal_lt hv
        simp only [List.length_cons] at hi
        have he' : (if dp then exponentAt i else e) = -2 ∨ (if dp then exponentAt i else e) = -1 ∨
            (if dp then exponentAt i else e) = 0 := by
          split
          · unfold exponentAt; omega
          · exact he
        obtain ⟨h1, h2⟩ := ih _ _ _ _ (by omega) he' h
        refine ⟨?_, h2⟩
        rw [List.length_cons, Nat.pow_succ]
        have : (10 * m + v + 1) * 10 ^ rest.length ≤ (10 * (m + 1)) * 10 ^ rest.length := Nat.mul_le_mul_right _ (by omega)
        calc r.1 + 1 ≤ _ := h1
          _ ≤ _ := this
          _ = _ := by ring

/-- The decoder's value results are positions in range (R12, R108). -/
theorem decodeDisplay_value_inRange {d : DigitTable} {q : Payload} {m : Nat} {e : Int} {bad : Bool}
    (h : decodeDisplay d q = .value m e bad) : Position.inRange ⟨m, e⟩ := by
  unfold decodeDisplay at h
  split at h
  · cases h
  · split at h
    · cases h
    · split at h
      · unfold decodeFault at h; split at h <;> cases h
      · unfold decodeValue at h
        split at h
        · rename_i m' e' hs
          cases h
          have := scanDigits_range _ _ _ _ _ _ (by simp) (by simp) hs
          simp at this
          exact ⟨by dsimp; omega, this.2⟩
        · cases h

/-! ### The parts of the pumps, each as one update -/

theorem feed_eq (s : State) : feed s = { s with wdtCnt := s.cfg.wdtTimeout } := rfl

theorem signalActivity_waiting {s : State} (h : s.kaState = .waiting) :
    signalActivity s = { s with kaTimer := s.cfg.kaInterval } := by simp [signalActivity, h]

theorem signalActivity_elsewhere {s : State} (h : s.kaState ≠ .waiting) : signalActivity s = { s with kaPending := true } := by
  unfold signalActivity; split <;> first | rfl | (rename_i hk; exact absurd hk h)

/-- The activity signal as one update (R165). -/
theorem signalActivity_eq (s : State) : signalActivity s =
    { s with
      kaTimer := if s.kaState = .waiting then s.cfg.kaInterval else s.kaTimer
      kaPending := if s.kaState = .waiting then s.kaPending else true } := by
  by_cases h : s.kaState = .waiting
  · rw [signalActivity_waiting h]; simp [h]
  · rw [signalActivity_elsewhere h]; simp [h]

theorem reportMismatchH_eq (f : Frame) (s : State) : reportMismatchH f s =
    { s with trace := s.trace ++ if ckBad f.payload then [.diag (.checksumMismatch .H f)] else [] } := by
  unfold reportMismatchH; split <;> simp [raiseDiag, emit]

theorem reportKeys_eq (r : ButtonState) (s : State) : reportKeys r s =
    { s with
      prevKeys := r.keys
      trace := s.trace ++ if r.keys = s.prevKeys then [] else [.diag (.keysChanged r.keys r.isNone)] } := by
  unfold reportKeys; split
  · rename_i h; simp [h]
  · simp [raiseDiag, emit]

theorem forwardH_eq (f : Frame) (s : State) : forwardH f s =
    { s with trace := s.trace ++ if s.busOwner = .free then [.txCtrl f] else [] } := by
  unfold forwardH
  split
  · rename_i h; simp [emit, h]
  · rename_i h
    have hne : s.busOwner ≠ .free := by simp [h]
    simp [hne]
  · rename_i h
    have hne : s.busOwner ≠ .free := by simp [h]
    simp [hne]

theorem passThrough_eq (f : Frame) (s : State) : passThrough f s =
    { s with trace := s.trace ++ if s.cfg.passThrough = true then [.txHand f] else [] } := by
  unfold passThrough; split <;> simp_all [emit]

/-- Pump H on an exact frame as one update (R131 to R135). -/
theorem pumpHOk_eq (f : Frame) (s : State) : pumpHOk f s =
    { s with
      wdtCnt := s.cfg.wdtTimeout
      prevKeys := (decodeButton f.payload).keys
      kaTimer := if (decodeButton f.payload).isNone = false ∧ s.kaState = .waiting then s.cfg.kaInterval else s.kaTimer
      kaPending := if (decodeButton f.payload).isNone = false ∧ s.kaState ≠ .waiting then true else s.kaPending
      trace := s.trace ++ ((if ckBad f.payload then [.diag (.checksumMismatch .H f)] else []) ++
        ((if (decodeButton f.payload).keys = s.prevKeys then []
          else [.diag (.keysChanged (decodeButton f.payload).keys (decodeButton f.payload).isNone)]) ++
        (if s.busOwner = .free then [.txCtrl f] else []))) } := by
  unfold pumpHOk
  rw [forwardH_eq]
  cases h : (decodeButton f.payload).isNone
  · simp only [signalKeys, h, signalActivity_eq, reportKeys_eq, reportMismatchH_eq, feed_eq]
    by_cases hk : s.kaState = .waiting <;> simp [hk]
  · simp [signalKeys, h, reportKeys_eq, reportMismatchH_eq, feed_eq]

/-- What pump C writes and reports for a decode result (R137, R139). -/
theorem actOnDisplay_eq (f : Frame) (r : DisplayResult) (s : State) : ∃ out : List Output,
    actOnDisplay f r s =
      { s with
        pos := match r with
          | .value m e false => ⟨m, e⟩
          | _ => s.pos
        trace := s.trace ++ out } ∧
    ∀ o ∈ out, ∃ d, o = .diag d := by
  cases r with
  | noHeight => exact ⟨[], by simp [actOnDisplay], by simp⟩
  | reset => exact ⟨[_], rfl, by simp⟩
  | fault code bad => exact ⟨[_], rfl, by simp⟩
  | formatError why => exact ⟨[_], rfl, by simp⟩
  | value m e bad =>
    cases bad with
    | false => exact ⟨[], by simp [actOnDisplay], by simp⟩
    | true => exact ⟨[_], rfl, by simp⟩

/-! ### What an arrival on a line can do -/

/-- Everything an arrival on the handset line can change (R11, R17, R130 to R135, R169). -/
structure HandsetEffect (s t : State) : Prop where
  frame : t = { s with
    bufH := t.bufH, runH := t.runH, prevKeys := t.prevKeys, kaTimer := t.kaTimer, kaPending := t.kaPending,
    wdtCnt := t.wdtCnt, trace := t.trace }
  wdt : t.wdtCnt = s.wdtCnt ∨ t.wdtCnt = s.cfg.wdtTimeout
  timer : t.kaTimer = s.kaTimer ∨ (s.kaState = .waiting ∧ t.kaTimer = s.cfg.kaInterval)
  pending : t.kaPending = s.kaPending ∨ s.kaState ≠ .waiting
  buf : bufOk Config.startH s.bufH → bufOk Config.startH t.bufH
  run : t.runH = s.runH ∨ (s.runH = .running ∧ t.runH = .stopped ∧ s.cancel = true)
  outs : ∃ out, t.trace = s.trace ++ out ∧ (∀ f, .txCtrl f ∈ out → s.busOwner = .free) ∧ (∀ f, .txHand f ∉ out) ∧
    .hardReset ∉ out
  diag : s.mode = .diag → t = s

/-- Everything an arrival on the controller line can change (R11, R17, R136 to R139, R169). -/
structure ControllerEffect (s t : State) : Prop where
  frame : t = { s with bufC := t.bufC, runC := t.runC, pos := t.pos, wdtCnt := t.wdtCnt, trace := t.trace }
  wdt : t.wdtCnt = s.wdtCnt ∨ t.wdtCnt = s.cfg.wdtTimeout
  pos : t.pos = s.pos ∨ ∃ f : Frame, decodeDisplay s.cfg.digit f.payload = .value t.pos.mantissa t.pos.exponent false
  buf : bufOk Config.startC s.bufC → bufOk Config.startC t.bufC
  run : t.runC = s.runC ∨ (s.runC = .running ∧ t.runC = .stopped ∧ s.cancel = true)
  outs : ∃ out, t.trace = s.trace ++ out ∧ (∀ f, .txCtrl f ∉ out) ∧ (∀ f, .txHand f ∈ out → s.cfg.passThrough = true) ∧
    .hardReset ∉ out
  diag : s.mode = .diag → t = s

theorem HandsetEffect.refl (s : State) : HandsetEffect s s :=
  ⟨rfl, .inl rfl, .inl rfl, .inl rfl, id, .inl rfl, ⟨[], by simp⟩, fun _ => rfl⟩

theorem ControllerEffect.refl (s : State) : ControllerEffect s s :=
  ⟨rfl, .inl rfl, .inl rfl, id, .inl rfl, ⟨[], by simp⟩, fun _ => rfl⟩

theorem HandsetEffect.trans {s t u : State} (h1 : HandsetEffect s t) (h2 : HandsetEffect t u) : HandsetEffect s u := by
  obtain ⟨f1, w1, k1, p1, b1, r1, ⟨o1, e1, c1, x1, z1⟩, d1⟩ := h1
  obtain ⟨f2, w2, k2, p2, b2, r2, ⟨o2, e2, c2, x2, z2⟩, d2⟩ := h2
  have hcfg : t.cfg = s.cfg := by rw [f1]
  have hka : t.kaState = s.kaState := by rw [f1]
  have hbus : t.busOwner = s.busOwner := by rw [f1]
  have hcan : t.cancel = s.cancel := by rw [f1]
  have hmode : t.mode = s.mode := by rw [f1]
  rw [hcfg] at w2
  rw [hka, hcfg] at k2
  rw [hka] at p2
  rw [hbus] at c2
  rw [hcan] at r2
  refine ⟨?_, ?_, ?_, ?_, fun h => b2 (b1 h), ?_, ⟨o1 ++ o2, ?_, ?_, ?_, ?_⟩, ?_⟩
  · rw [f1] at f2; exact f2
  · rcases w2 with h | h
    · rw [h]; exact w1
    · exact .inr h
  · rcases k2 with h | h
    · rw [h]; exact k1
    · exact .inr h
  · rcases p2 with h | h
    · rw [h]; exact p1
    · exact .inr h
  · rcases r2 with h | ⟨ha, hb, hc⟩
    · rw [h]; exact r1
    · rcases r1 with h' | h'
      · rw [h'] at ha; exact .inr ⟨ha, hb, hc⟩
      · rw [h'.2.1] at ha; cases ha
  · rw [e2, e1, List.append_assoc]
  · intro f hf
    rcases List.mem_append.mp hf with h | h
    · exact c1 f h
    · exact c2 f h
  · intro f hf
    rcases List.mem_append.mp hf with h | h
    · exact x1 f h
    · exact x2 f h
  · intro hf
    rcases List.mem_append.mp hf with h | h
    · exact z1 h
    · exact z2 h
  · intro h
    have := d1 h
    rw [d2 (hmode.trans h), this]

theorem ControllerEffect.trans {s t u : State} (h1 : ControllerEffect s t) (h2 : ControllerEffect t u) :
    ControllerEffect s u := by
  obtain ⟨f1, w1, p1, b1, r1, ⟨o1, e1, c1, x1, z1⟩, d1⟩ := h1
  obtain ⟨f2, w2, p2, b2, r2, ⟨o2, e2, c2, x2, z2⟩, d2⟩ := h2
  have hcfg : t.cfg = s.cfg := by rw [f1]
  have hcan : t.cancel = s.cancel := by rw [f1]
  have hmode : t.mode = s.mode := by rw [f1]
  rw [hcfg] at w2 p2 x2
  rw [hcan] at r2
  refine ⟨?_, ?_, ?_, fun h => b2 (b1 h), ?_, ⟨o1 ++ o2, ?_, ?_, ?_, ?_⟩, ?_⟩
  · rw [f1] at f2; exact f2
  · rcases w2 with h | h
    · rw [h]; exact w1
    · exact .inr h
  · rcases p2 with h | h
    · rw [h]; exact p1
    · exact .inr h
  · rcases r2 with h | ⟨ha, hb, hc⟩
    · rw [h]; exact r1
    · rcases r1 with h' | h'
      · rw [h'] at ha; exact .inr ⟨ha, hb, hc⟩
      · rw [h'.2.1] at ha; cases ha
  · rw [e2, e1, List.append_assoc]
  · intro f hf
    rcases List.mem_append.mp hf with h | h
    · exact c1 f h
    · exact c2 f h
  · intro f hf
    rcases List.mem_append.mp hf with h | h
    · exact x1 f h
    · exact x2 f h
  · intro hf
    rcases List.mem_append.mp hf with h | h
    · exact z1 h
    · exact z2 h
  · intro h
    have := d1 h
    rw [d2 (hmode.trans h), this]

theorem bufOk_nil (start : Byte) : bufOk start [] := ⟨by simp, .inl rfl⟩

theorem HandsetEffect.emitDiag {s : State} {b : List Byte} {r : RunState} (d : Diag) (hrun : s.mode = .run)
    (hb : bufOk Config.startH b) (hr : r = s.runH ∨ (s.runH = .running ∧ r = .stopped ∧ s.cancel = true)) :
    HandsetEffect s (raiseDiag d { s with bufH := b, runH := r }) :=
  ⟨rfl, .inl rfl, .inl rfl, .inl rfl, fun _ => hb, hr, ⟨[.diag d], rfl, by simp⟩, fun h => by rw [hrun] at h; cases h⟩

theorem ControllerEffect.emitDiag {s : State} {b : List Byte} {r : RunState} (d : Diag) (hrun : s.mode = .run)
    (hb : bufOk Config.startC b) (hr : r = s.runC ∨ (s.runC = .running ∧ r = .stopped ∧ s.cancel = true)) :
    ControllerEffect s (raiseDiag d { s with bufC := b, runC := r }) :=
  ⟨rfl, .inl rfl, .inl rfl, fun _ => hb, hr, ⟨[.diag d], rfl, by simp⟩, fun h => by rw [hrun] at h; cases h⟩

theorem handsetEffect_pump (o : ReaderOutcome) (s : State) (hrun : s.mode = .run) :
    HandsetEffect s (pump .H o (setBuf .H [] s)) := by
  cases o with
  | ok f =>
    show HandsetEffect s (pumpHOk f (setBuf .H [] s))
    rw [pumpHOk_eq]
    refine ⟨rfl, .inr rfl, ?_, ?_, fun _ => bufOk_nil _, .inl rfl, ⟨_, rfl, ?_, ?_, ?_⟩, fun h => by rw [hrun] at h; cases h⟩
    · by_cases h : (decodeButton f.payload).isNone = false ∧ s.kaState = .waiting
      · exact .inr ⟨h.2, by simp [h, setBuf]⟩
      · exact .inl (by simp [h, setBuf])
    · by_cases h : (decodeButton f.payload).isNone = false ∧ s.kaState ≠ .waiting
      · exact .inr h.2
      · left; dsimp only [setBuf]; exact if_neg h
    · intro g hg
      simp at hg
      exact hg.1
    · intro g hg
      simp at hg
    · intro hg
      simp at hg
  | long f good => exact HandsetEffect.emitDiag _ hrun (bufOk_nil _) (.inl rfl)
  | short b => exact HandsetEffect.emitDiag _ hrun (bufOk_nil _) (.inl rfl)
  | readError b => exact HandsetEffect.emitDiag _ hrun (bufOk_nil _) (.inl rfl)
  | canceled => exact HandsetEffect.emitDiag _ hrun (bufOk_nil _) (.inl rfl)

theorem controllerEffect_pump (o : ReaderOutcome) (s : State) (hrun : s.mode = .run) :
    ControllerEffect s (pump .C o (setBuf .C [] s)) := by
  cases o with
  | ok f =>
    show ControllerEffect s (pumpCOk f (setBuf .C [] s))
    unfold pumpCOk
    obtain ⟨out, h1, h2⟩ := actOnDisplay_eq f (decodeDisplay (setBuf .C [] s).cfg.digit f.payload) (feed (setBuf .C [] s))
    rw [passThrough_eq, h1]
    refine ⟨rfl, .inr rfl, ?_, fun _ => bufOk_nil _, .inl rfl, ⟨_, List.append_assoc _ _ _, ?_, ?_, ?_⟩,
      fun h => by rw [hrun] at h; cases h⟩
    · dsimp [setBuf, feed]
      split
      · rename_i m e heq; exact .inr ⟨f, heq⟩
      · exact .inl rfl
    · intro g hg
      rcases List.mem_append.mp hg with h | h
      · obtain ⟨d, hd⟩ := h2 _ h; cases hd
      · simp at h
    · intro g hg
      rcases List.mem_append.mp hg with h | h
      · obtain ⟨d, hd⟩ := h2 _ h; cases hd
      · simp at h; exact h.1
    · intro hg
      rcases List.mem_append.mp hg with h | h
      · obtain ⟨d, hd⟩ := h2 _ h; cases hd
      · simp at h
  | long f good => exact ControllerEffect.emitDiag _ hrun (bufOk_nil _) (.inl rfl)
  | short b => exact ControllerEffect.emitDiag _ hrun (bufOk_nil _) (.inl rfl)
  | readError b => exact ControllerEffect.emitDiag _ hrun (bufOk_nil _) (.inl rfl)
  | canceled => exact ControllerEffect.emitDiag _ hrun (bufOk_nil _) (.inl rfl)

theorem loopRuns_iff (x : Line) (s : State) : loopRuns x s = true ↔ s.mode = .run ∧ runOf x s = .running := by
  simp [loopRuns]

theorem handsetEffect_poll (chunk : List Byte) (s : State) : HandsetEffect s (pollLine .H chunk s) := by
  unfold pollLine
  split
  · rename_i hl
    obtain ⟨hrun, hr⟩ := (loopRuns_iff _ _).mp hl
    split
    · rename_i hc
      exact HandsetEffect.emitDiag _ hrun (bufOk_nil _) (.inr ⟨hr, rfl, hc⟩)
    · unfold readChunk
      rw [takeIn_accumulated]
      dsimp only
      split
      · rename_i hlen
        refine ⟨rfl, .inl rfl, .inl rfl, .inl rfl, fun hb => ⟨?_, accumulated_head .H chunk s hb⟩, .inl rfl, ⟨[], by simp⟩,
          fun h => by rw [hrun] at h; cases h⟩
        simp only [Config.length] at hlen
        show (accumulated .H chunk s).length ≤ 4
        omega
      · exact handsetEffect_pump _ _ hrun
  · exact HandsetEffect.refl s

theorem controllerEffect_poll (chunk : List Byte) (s : State) : ControllerEffect s (pollLine .C chunk s) := by
  unfold pollLine
  split
  · rename_i hl
    obtain ⟨hrun, hr⟩ := (loopRuns_iff _ _).mp hl
    split
    · rename_i hc
      exact ControllerEffect.emitDiag _ hrun (bufOk_nil _) (.inr ⟨hr, rfl, hc⟩)
    · unfold readChunk
      rw [takeIn_accumulated]
      dsimp only
      split
      · rename_i hlen
        refine ⟨rfl, .inl rfl, .inl rfl, fun hb => ⟨?_, accumulated_head .C chunk s hb⟩, .inl rfl, ⟨[], by simp⟩,
          fun h => by rw [hrun] at h; cases h⟩
        simp only [Config.length] at hlen
        show (accumulated .C chunk s).length ≤ 4
        omega
      · exact controllerEffect_pump _ _ hrun
  · exact ControllerEffect.refl s

theorem handsetEffect_error (s : State) : HandsetEffect s (errorLine .H s) := by
  unfold errorLine
  split
  · rename_i hl
    obtain ⟨hrun, hr⟩ := (loopRuns_iff _ _).mp hl
    split
    · rename_i hc
      exact HandsetEffect.emitDiag _ hrun (bufOk_nil _) (.inr ⟨hr, rfl, hc⟩)
    · exact handsetEffect_pump _ _ hrun
  · exact HandsetEffect.refl s

theorem controllerEffect_error (s : State) : ControllerEffect s (errorLine .C s) := by
  unfold errorLine
  split
  · rename_i hl
    obtain ⟨hrun, hr⟩ := (loopRuns_iff _ _).mp hl
    split
    · rename_i hc
      exact ControllerEffect.emitDiag _ hrun (bufOk_nil _) (.inr ⟨hr, rfl, hc⟩)
    · exact controllerEffect_pump _ _ hrun
  · exact ControllerEffect.refl s

theorem rxEvent_next_iff {x : Line} {chunk : List Byte} {s t : State} :
    rxEvent x chunk s = .next t ↔ chunk.length ≤ s.cfg.chunkMax ∧ pollLine x chunk s = t := by
  unfold rxEvent; split <;> simp_all

theorem handsetEffect_rx {chunk : List Byte} {s t : State} (h : rxEvent .H chunk s = .next t) : HandsetEffect s t := by
  obtain ⟨-, rfl⟩ := rxEvent_next_iff.mp h
  exact handsetEffect_poll chunk s

theorem controllerEffect_rx {chunk : List Byte} {s t : State} (h : rxEvent .C chunk s = .next t) : ControllerEffect s t := by
  obtain ⟨-, rfl⟩ := rxEvent_next_iff.mp h
  exact controllerEffect_poll chunk s

theorem handsetEffect_serial (bs : List Byte) {s t : State} (h : serialPolls .H bs s = .next t) : HandsetEffect s t := by
  induction bs generalizing s with
  | nil => cases h; exact HandsetEffect.refl _
  | cons b rest ih =>
    obtain ⟨u, hu, hv⟩ := andThen_next_iff.mp h
    exact (handsetEffect_rx hu).trans (ih hv)

theorem controllerEffect_serial (bs : List Byte) {s t : State} (h : serialPolls .C bs s = .next t) :
    ControllerEffect s t := by
  induction bs generalizing s with
  | nil => cases h; exact ControllerEffect.refl _
  | cons b rest ih =>
    obtain ⟨u, hu, hv⟩ := andThen_next_iff.mp h
    exact (controllerEffect_rx hu).trans (ih hv)

/-- A frame's arrival on the handset line changes what an arrival there can change. -/
theorem handsetEffect_frame {f : Frame} {s t : State} (h : frameArrives .H f s = .next t) : HandsetEffect s t := by
  unfold frameArrives at h
  split at h
  · exact handsetEffect_rx h
  · exact handsetEffect_serial _ h

/-- A frame's arrival on the controller line changes what an arrival there can change. -/
theorem controllerEffect_frame {f : Frame} {s t : State} (h : frameArrives .C f s = .next t) : ControllerEffect s t := by
  unfold frameArrives at h
  split at h
  · exact controllerEffect_rx h
  · exact controllerEffect_serial _ h

/-! ### Polls as updates -/

theorem accumulated_setBuf (x : Line) (chunk b : List Byte) (s : State) :
    accumulated x chunk (setBuf x b s) = if b = [] then chunk.dropWhile (fun y => y != x.start) else b ++ chunk := by
  cases x <;> rfl

theorem setBuf_empty {x : Line} {s : State} (h : bufOf x s = []) : setBuf x [] s = s := by rw [← h, setBuf_bufOf]

theorem polls_setBuf {x : Line} {s : State} (b : List Byte) (h : Polls x s) : Polls x (setBuf x b s) := by
  cases x <;> exact h

/-- A poll that leaves an incomplete frame keeps the bytes (R84). -/
theorem pollLine_incomplete {x : Line} {chunk : List Byte} {s : State} (hp : Polls x s)
    (hl : (accumulated x chunk s).length < 5) : pollLine x chunk s = setBuf x (accumulated x chunk s) s := by
  have h1 : loopRuns x s = true := (loopRuns_iff x s).mpr ⟨hp.1, hp.2.1⟩
  simp [pollLine, h1, hp.2.2, readChunk, takeIn_accumulated, Config.length, hl]

/-- A poll that completes a frame hands the candidate's class to the pump and empties the buffer (R84 to R89). -/
theorem pollLine_complete {x : Line} {chunk : List Byte} {s : State} (hp : Polls x s)
    (hl : 5 ≤ (accumulated x chunk s).length) : pollLine x chunk s =
      pump x (classify (candidate x.start (accumulated x chunk s))) (setBuf x [] s) := by
  have h1 : loopRuns x s = true := (loopRuns_iff x s).mpr ⟨hp.1, hp.2.1⟩
  have h2 : ¬ (accumulated x chunk s).length < 5 := by omega
  simp [pollLine, h1, hp.2.2, readChunk, takeIn_accumulated, Config.length, h2]

theorem rxEvent_fits {x : Line} {chunk : List Byte} {s : State} (h : chunk.length ≤ s.cfg.chunkMax) :
    rxEvent x chunk s = .next (pollLine x chunk s) := by simp [rxEvent, h]

theorem rxEvent_tooLong {x : Line} {chunk : List Byte} {s : State} (h : s.cfg.chunkMax < chunk.length) :
    rxEvent x chunk s = .refused .chunkTooLong := by simp [rxEvent, Nat.not_le.mpr h]

/-- Byte-serial delivery of the rest of a frame, from a non-empty buffer (R92). -/
theorem serialPolls_completes {x : Line} (bs buf : List Byte) {s : State} (hp : Polls x s) (hc : 1 ≤ s.cfg.chunkMax)
    (hbuf : buf ≠ []) (hbs : bs ≠ []) (hlen : buf.length + bs.length = 5) :
    serialPolls x bs (setBuf x buf s) = .next (pump x (classify (candidate x.start (buf ++ bs))) (setBuf x [] s)) := by
  induction bs generalizing buf with
  | nil => exact absurd rfl hbs
  | cons b rest ih =>
    have hacc : accumulated x [b] (setBuf x buf s) = buf ++ [b] := by rw [accumulated_setBuf, if_neg hbuf]
    have hfit : ([b] : List Byte).length ≤ (setBuf x buf s).cfg.chunkMax := by simpa using hc
    rw [serialPolls, rxEvent_fits hfit, andThen_next]
    simp only [List.length_cons] at hlen
    by_cases hr : rest = []
    · subst hr
      have hl : 5 ≤ (accumulated x [b] (setBuf x buf s)).length := by rw [hacc]; simp at hlen ⊢; omega
      rw [pollLine_complete (polls_setBuf buf hp) hl, hacc, setBuf_setBuf]
      rfl
    · have hpos : 0 < rest.length := List.length_pos_of_ne_nil hr
      have hl : (accumulated x [b] (setBuf x buf s)).length < 5 := by rw [hacc]; simp; omega
      rw [pollLine_incomplete (polls_setBuf buf hp) hl, hacc, setBuf_setBuf,
        ih (buf ++ [b]) (by simp) hr (by simp; omega), List.append_assoc]
      rfl

/-- A frame that arrives at a hunting reader is one candidate, however it is delivered (log 6). -/
theorem frameArrives_hunting {x : Line} {f : Frame} {s : State} (h : Hunting x s) (hf : f.header = x.start) :
    frameArrives x f s = .next (pump x (classify (candidate x.start f.bytes)) s) := by
  obtain ⟨hp, hb, hc⟩ := h
  have hacc : accumulated x f.bytes s = f.bytes := by simp [accumulated, hb, Frame.bytes, hf]
  unfold frameArrives
  split
  · rename_i h5
    rw [rxEvent_fits (by simpa [Frame.bytes, Config.length] using h5),
      pollLine_complete hp (by rw [hacc]; simp [Frame.bytes]), hacc, setBuf_empty hb]
  · have hacc1 : accumulated x [f.header] s = [f.header] := by simp [accumulated, hb, hf]
    rw [Frame.bytes, serialPolls, rxEvent_fits (by simpa using hc), andThen_next,
      pollLine_incomplete hp (by rw [hacc1]; simp), hacc1,
      serialPolls_completes [f.p0, f.p1, f.p2, f.ck] [f.header] hp hc (by simp) (by simp) (by simp), setBuf_empty hb]
    rfl

theorem candidate_clean {x : Line} {f : Frame} (h : CleanFrame x f) : candidate x.start f.bytes = f.bytes := by
  obtain ⟨h0, h1, h2, h3, h4⟩ := h
  simp [candidate, Frame.bytes, h1, h2, h3, h4]

/-- A frame without an inner start byte reaches the pump as it is (R86). -/
theorem frameArrives_clean {x : Line} {f : Frame} {s : State} (h : Hunting x s) (hf : CleanFrame x f) :
    frameArrives x f s = .next (pump x (.ok f) s) := by
  rw [frameArrives_hunting h hf.1, candidate_clean hf]
  rfl

theorem pollLine_off {x : Line} {chunk : List Byte} {s : State} (h : s.mode = .diag ∨ runOf x s = .stopped) :
    pollLine x chunk s = s := by
  have : loopRuns x s = false := by
    rw [Bool.eq_false_iff, ne_eq, loopRuns_iff]
    rintro ⟨h1, h2⟩
    rcases h with h | h <;> simp_all
  simp [pollLine, this]

theorem errorLine_off {x : Line} {s : State} (h : s.mode = .diag ∨ runOf x s = .stopped) : errorLine x s = s := by
  have : loopRuns x s = false := by
    rw [Bool.eq_false_iff, ne_eq, loopRuns_iff]
    rintro ⟨h1, h2⟩
    rcases h with h | h <;> simp_all
  simp [errorLine, this]

theorem pollLine_cancelled {x : Line} {chunk : List Byte} {s : State} (h : s.mode = .run) (hr : runOf x s = .running)
    (hc : s.cancel = true) : pollLine x chunk s = raiseDiag (.canceled x) (setRun x .stopped (setBuf x [] s)) := by
  have h1 : loopRuns x s = true := (loopRuns_iff x s).mpr ⟨h, hr⟩
  simp [pollLine, h1, hc, cancelPoll, pump]

theorem errorLine_cancelled {x : Line} {s : State} (h : s.mode = .run) (hr : runOf x s = .running)
    (hc : s.cancel = true) : errorLine x s = raiseDiag (.canceled x) (setRun x .stopped (setBuf x [] s)) := by
  have h1 : loopRuns x s = true := (loopRuns_iff x s).mpr ⟨h, hr⟩
  simp [errorLine, h1, hc, cancelPoll, pump]

theorem errorLine_polls {x : Line} {s : State} (h : Polls x s) :
    errorLine x s = raiseDiag (.readError x (bufOf x s)) (setBuf x [] s) := by
  have h1 : loopRuns x s = true := (loopRuns_iff x s).mpr ⟨h.1, h.2.1⟩
  simp [errorLine, h1, h.2.2, pump]

/-! ### Bursts and ticks -/

theorem startCmdBurst_eq (s : State) : startCmdBurst s =
    { s with
      busOwner := .cmd, cmdState := .burst, act := true, cmdN := 4, cmdSp := s.cfg.spacing
      trace := s.trace ++ [.act true, .txCtrl (slotFrame s.cmdSlot)] } := by
  simp [startCmdBurst, emit, Config.burst]

theorem startKaBurst_eq (s : State) : startKaBurst s =
    { s with
      busOwner := .ka, kaState := .firingBurst, act := true, kaN := 4, kaSp := s.cfg.spacing
      trace := s.trace ++ [.act true, .txCtrl encodeKeepalive] } := by
  simp [startKaBurst, emit, Config.burst]

theorem endCmdBurst_eq (s : State) : endCmdBurst s =
    { s with
      act := false, busOwner := .free, cmdState := .idle
      kaTimer := if s.kaState = .waiting then s.cfg.kaInterval else s.kaTimer
      kaPending := if s.kaState = .waiting then s.kaPending else true
      trace := s.trace ++ [.act false, .ret .ok] } := by
  simp [endCmdBurst, signalActivity_eq, emit, giveBack]

theorem endKaBurst_eq (s : State) : endKaBurst s =
    { s with
      act := false, busOwner := .free, kaState := .waiting, kaTimer := s.cfg.kaInterval, kaPending := false
      trace := s.trace ++ [.act false] } := rfl

/-- A write of the command burst that is not the last (R145). -/
theorem writeCmdBurst_more {s : State} (h : 2 ≤ s.cmdN) : writeCmdBurst s = .next
    { s with cmdN := s.cmdN - 1, cmdSp := s.cfg.spacing, trace := s.trace ++ [.txCtrl (slotFrame s.cmdSlot)] } := by
  have h0 : s.cmdN - 1 ≠ 0 := by omega
  rw [writeCmdBurst, countDown_pos (by omega)]
  simp [h0, emit]

/-- The last write of the command burst, with the burst's end (R146). -/
theorem writeCmdBurst_last {s : State} (h : s.cmdN = 1) : writeCmdBurst s = .next
    { s with
      cmdN := 0, act := false, busOwner := .free, cmdState := .idle
      kaTimer := if s.kaState = .waiting then s.cfg.kaInterval else s.kaTimer
      kaPending := if s.kaState = .waiting then s.kaPending else true
      trace := s.trace ++ [.txCtrl (slotFrame s.cmdSlot), .act false, .ret .ok] } := by
  rw [writeCmdBurst, countDown_pos (by omega)]
  simp [h, emit, endCmdBurst_eq]

theorem writeCmdBurst_next_iff {s t : State} : writeCmdBurst s = .next t ↔
    (2 ≤ s.cmdN ∧ t =
      { s with cmdN := s.cmdN - 1, cmdSp := s.cfg.spacing, trace := s.trace ++ [.txCtrl (slotFrame s.cmdSlot)] }) ∨
    (s.cmdN = 1 ∧ t =
      { s with
        cmdN := 0, act := false, busOwner := .free, cmdState := .idle
        kaTimer := if s.kaState = .waiting then s.cfg.kaInterval else s.kaTimer
        kaPending := if s.kaState = .waiting then s.kaPending else true
        trace := s.trace ++ [.txCtrl (slotFrame s.cmdSlot), .act false, .ret .ok] }) := by
  rcases Nat.lt_trichotomy s.cmdN 1 with h | h | h
  · have h0 : s.cmdN = 0 := by omega
    simp [writeCmdBurst, h0]
  · rw [writeCmdBurst_last h]; simp [h, eq_comm]
  · have h1 : s.cmdN ≠ 1 := by omega
    have h2 : 2 ≤ s.cmdN := h
    rw [writeCmdBurst_more h]; simp [h1, h2, eq_comm]

/-- A write of the keep-alive burst that is not the last (R163). -/
theorem writeKaBurst_more {s : State} (h : 2 ≤ s.kaN) : writeKaBurst s = .next
    { s with kaN := s.kaN - 1, kaSp := s.cfg.spacing, trace := s.trace ++ [.txCtrl encodeKeepalive] } := by
  have h0 : s.kaN - 1 ≠ 0 := by omega
  rw [writeKaBurst, countDown_pos (by omega)]
  simp [h0, emit]

/-- The last write of the keep-alive burst, with the burst's end (R164). -/
theorem writeKaBurst_last {s : State} (h : s.kaN = 1) : writeKaBurst s = .next
    { s with
      kaN := 0, act := false, busOwner := .free, kaState := .waiting, kaTimer := s.cfg.kaInterval, kaPending := false
      trace := s.trace ++ [.txCtrl encodeKeepalive, .act false] } := by
  rw [writeKaBurst, countDown_pos (by omega)]
  simp [h, emit, endKaBurst_eq]

theorem writeKaBurst_next_iff {s t : State} : writeKaBurst s = .next t ↔
    (2 ≤ s.kaN ∧ t =
      { s with kaN := s.kaN - 1, kaSp := s.cfg.spacing, trace := s.trace ++ [.txCtrl encodeKeepalive] }) ∨
    (s.kaN = 1 ∧ t =
      { s with
        kaN := 0, act := false, busOwner := .free, kaState := .waiting, kaTimer := s.cfg.kaInterval, kaPending := false
        trace := s.trace ++ [.txCtrl encodeKeepalive, .act false] }) := by
  rcases Nat.lt_trichotomy s.kaN 1 with h | h | h
  · have h0 : s.kaN = 0 := by omega
    simp [writeKaBurst, h0]
  · rw [writeKaBurst_last h]; simp [h, eq_comm]
  · have h1 : s.kaN ≠ 1 := by omega
    have h2 : 2 ≤ s.kaN := h
    rw [writeKaBurst_more h]; simp [h1, h2, eq_comm]

/-- The interval part of a tick (R161, R162). -/
theorem kaIntervalTick_eq {s : State} (h : s.kaState = .waiting → 1 ≤ s.kaTimer) :
    kaIntervalTick s = .next (afterInterval s) := by
  unfold kaIntervalTick afterInterval
  split <;> rename_i hk
  · have h1 := h hk
    rw [countDown_pos h1]
    have : s.kaTimer - 1 = 0 ↔ s.kaTimer = 1 := by omega
    simp [hk, this]
  all_goals simp [hk]

theorem kaIntervalTick_next_iff {s t : State} : kaIntervalTick s = .next t ↔
    (s.kaState = .waiting → 1 ≤ s.kaTimer) ∧ t = afterInterval s := by
  by_cases h : s.kaState = .waiting → 1 ≤ s.kaTimer
  · rw [kaIntervalTick_eq h]; simp only [Host.Outcome.next.injEq]; exact ⟨fun e => ⟨h, e.symm⟩, fun e => e.2.symm⟩
  · have hk : s.kaState = .waiting := by by_contra hk; exact h fun h' => absurd h' hk
    have h0 : s.kaTimer = 0 := by
      by_contra h0
      exact h fun _ => by omega
    simp [kaIntervalTick, hk, h0]

theorem cmdTick_idle {s : State} (h : s.cmdState ≠ .burst) : cmdTick s = .next s := by
  unfold cmdTick; split
  · rename_i hb; exact absurd hb h
  · rfl
  · rfl

theorem cmdTick_waits {s : State} (h : s.cmdState = .burst) (hs : 2 ≤ s.cmdSp) :
    cmdTick s = .next { s with cmdSp := s.cmdSp - 1 } := by
  have h0 : s.cmdSp - 1 ≠ 0 := by omega
  rw [cmdTick, h]; dsimp only
  rw [countDown_pos (by omega)]; simp [h0]

theorem cmdTick_writes {s : State} (h : s.cmdState = .burst) (hs : s.cmdSp = 1) :
    cmdTick s = writeCmdBurst { s with cmdSp := 0 } := by
  rw [cmdTick, h]; dsimp only
  rw [countDown_pos (by omega)]; simp [hs]

/-- Everything `CMD_TICK` can do (R145, R146). -/
theorem cmdTick_next_iff {s t : State} : cmdTick s = .next t ↔
    (s.cmdState ≠ .burst ∧ t = s) ∨ (s.cmdState = .burst ∧ 2 ≤ s.cmdSp ∧ t = { s with cmdSp := s.cmdSp - 1 }) ∨
    (s.cmdState = .burst ∧ s.cmdSp = 1 ∧ writeCmdBurst { s with cmdSp := 0 } = .next t) := by
  by_cases h : s.cmdState = .burst
  · rcases Nat.lt_trichotomy s.cmdSp 1 with hs | hs | hs
    · have h0 : s.cmdSp = 0 := by omega
      simp [cmdTick, h, h0]
    · rw [cmdTick_writes h hs]; simp [h, hs]
    · have h1 : s.cmdSp ≠ 1 := by omega
      have h2 : 2 ≤ s.cmdSp := hs
      rw [cmdTick_waits h hs]; simp only [Host.Outcome.next.injEq, ne_eq, h, not_true, false_and, true_and, h1, h2, or_false,
        false_or]; exact eq_comm
  · rw [cmdTick_idle h]; simp only [Host.Outcome.next.injEq, ne_eq, h, not_false_eq_true, true_and, false_and, or_false]
    exact eq_comm

theorem kaBurstTick_idle {s : State} (h : s.kaState ≠ .firingBurst) : kaBurstTick s = .next s := by
  unfold kaBurstTick; split
  · rename_i hb; exact absurd hb h
  · rfl
  · rfl
  · rfl

theorem kaBurstTick_waits {s : State} (h : s.kaState = .firingBurst) (hs : 2 ≤ s.kaSp) :
    kaBurstTick s = .next { s with kaSp := s.kaSp - 1 } := by
  have h0 : s.kaSp - 1 ≠ 0 := by omega
  rw [kaBurstTick, h]; dsimp only
  rw [countDown_pos (by omega)]; simp [h0]

theorem kaBurstTick_writes {s : State} (h : s.kaState = .firingBurst) (hs : s.kaSp = 1) :
    kaBurstTick s = writeKaBurst { s with kaSp := 0 } := by
  rw [kaBurstTick, h]; dsimp only
  rw [countDown_pos (by omega)]; simp [hs]

/-- Everything `KA_BURST_TICK` can do (R163, R164). -/
theorem kaBurstTick_next_iff {s t : State} : kaBurstTick s = .next t ↔
    (s.kaState ≠ .firingBurst ∧ t = s) ∨ (s.kaState = .firingBurst ∧ 2 ≤ s.kaSp ∧ t = { s with kaSp := s.kaSp - 1 }) ∨
    (s.kaState = .firingBurst ∧ s.kaSp = 1 ∧ writeKaBurst { s with kaSp := 0 } = .next t) := by
  by_cases h : s.kaState = .firingBurst
  · rcases Nat.lt_trichotomy s.kaSp 1 with hs | hs | hs
    · have h0 : s.kaSp = 0 := by omega
      simp [kaBurstTick, h, h0]
    · rw [kaBurstTick_writes h hs]; simp [h, hs]
    · have h1 : s.kaSp ≠ 1 := by omega
      have h2 : 2 ≤ s.kaSp := hs
      rw [kaBurstTick_waits h hs]; simp only [Host.Outcome.next.injEq, ne_eq, h, not_true, false_and, true_and, h1, h2, or_false,
        false_or]; exact eq_comm
  · rw [kaBurstTick_idle h]; simp only [Host.Outcome.next.injEq, ne_eq, h, not_false_eq_true, true_and, false_and, or_false]
    exact eq_comm

/-- The tick in which the watchdog expires (R168, R170). -/
theorem tickRun_expires {s : State} (h : s.wdtCnt = 1) : tickRun s = .next (wdtExpire { s with wdtCnt := 0 }) := by
  rw [tickRun, countDown_pos (by omega)]; simp [h]

/-- Every other tick: the three parts in order (R171). -/
theorem tickRun_counts {s : State} (h : 2 ≤ s.wdtCnt) : tickRun s =
    andThen (andThen (kaIntervalTick { s with wdtCnt := s.wdtCnt - 1 }) cmdTick) kaBurstTick := by
  have h0 : s.wdtCnt - 1 ≠ 0 := by omega
  rw [tickRun, countDown_pos (by omega)]; simp [h0]

/-- Everything `TICK` can do in mode `Run` (R168, R171). -/
theorem tickRun_next_iff {s t : State} : tickRun s = .next t ↔
    (s.wdtCnt = 1 ∧ t = wdtExpire { s with wdtCnt := 0 }) ∨
    (2 ≤ s.wdtCnt ∧ (s.kaState = .waiting → 1 ≤ s.kaTimer) ∧
      ∃ u, cmdTick (afterInterval { s with wdtCnt := s.wdtCnt - 1 }) = .next u ∧ kaBurstTick u = .next t) := by
  rcases Nat.lt_trichotomy s.wdtCnt 1 with h | h | h
  · have h0 : s.wdtCnt = 0 := by omega
    simp [tickRun, h0]
  · rw [tickRun_expires h]; simp [h, eq_comm]
  · have h1 : s.wdtCnt ≠ 1 := by omega
    have h2 : 2 ≤ s.wdtCnt := h
    rw [tickRun_counts h, andThen_next_iff]
    simp only [h1, h2, false_and, true_and, false_or]
    constructor
    · rintro ⟨u, hu, ht⟩
      obtain ⟨v, hv, hu'⟩ := andThen_next_iff.mp hu
      obtain ⟨hk, rfl⟩ := kaIntervalTick_next_iff.mp hv
      exact ⟨hk, u, hu', ht⟩
    · rintro ⟨hk, u, hu, ht⟩
      exact ⟨u, andThen_next_iff.mpr ⟨_, kaIntervalTick_next_iff.mpr ⟨hk, rfl⟩, hu⟩, ht⟩

/-! ### Grants, cancellation -/

theorem cmdGrantable_iff (s : State) :
    cmdGrantable s = true ↔ s.mode = .run ∧ s.busOwner = .free ∧ s.cmdState = .waitLock := by
  simp [cmdGrantable, and_assoc]

theorem kaGrantable_iff (s : State) :
    kaGrantable s = true ↔ s.mode = .run ∧ s.busOwner = .free ∧ s.kaState = .firingWait := by
  simp [kaGrantable, and_assoc]

theorem cutKaBurst_cuts {s : State} (h : s.kaState = .firingBurst) :
    cutKaBurst s = { s with busOwner := .free, act := false, trace := s.trace ++ [.act false] } := by
  simp only [cutKaBurst, h, emit]

theorem cutKaBurst_same {s : State} (h : s.kaState ≠ .firingBurst) : cutKaBurst s = s := by
  unfold cutKaBurst; split
  · rename_i hb; exact absurd hb h
  · rfl
  · rfl
  · rfl

end Sys2Proof.Machine
end

