-- ==== Sys2Proof/Laws/Exec.lean ====
section
/-! SUPPORT. Everything an operation can do, once for all thirty: the cases of `exec`, and the writes of a tick. -/

namespace Sys2Proof.Machine

/-- What can lie between `s` and `t` when operation `i` goes from `s` to `t`. -/
inductive Effect (i : Instr) (s t : State) : Prop where
  | handset (h : isHandsetOp i) (e : HandsetEffect s t)
  | controller (h : isControllerOp i) (e : ControllerEffect s t)
  | tickRun (h : i = .tick) (m : s.mode = .run) (e : tickRun s = .next t)
  | tickDiag (h : i = .tick) (m : s.mode = .diag) (e : t = tickDiag s)
  | reset (h : i = .reset) (e : t = resetBlock s)
  | cmdWrite (h : i = .cmdSlot1 ∨ i = .cmdSlot2 ∨ i = .cmdSlot3 ∨ i = .cmdSlot4) (m : s.mode = .run)
      (b : s.cmdState = .burst) (e : writeCmdBurst s = .next t)
  | kaWrite (h : i = .keepalive) (m : s.mode = .run) (b : s.kaState = .firingBurst) (e : writeKaBurst s = .next t)
  | grantCmd (h : i = .grantCmd) (m : s.mode = .run) (f : s.busOwner = .free) (w : s.cmdState = .waitLock)
      (e : t = startCmdBurst s)
  | grantKa (h : i = .grantKa) (m : s.mode = .run) (f : s.busOwner = .free) (w : s.kaState = .firingWait)
      (e : t = startKaBurst s)
  | cancel (h : i = .cancel) (m : s.mode = .run) (e : t = cancelRun s)
  | moveTo (slot : Byte) (sl : Slot) (h : i = .moveTo slot) (m : s.mode = .run) (d : s.cmdState = .idle)
      (e : t = { s with cmdSlot := sl, cmdState := .waitLock })
  | remote (b : Bool) (h : i = .setRemoteEnabled b) (m : s.mode = .run) (e : t = { s with remoteEn := b })
  | signal (h : i = .signalActivity) (e : t = signalActivity s)
  | feed (h : i = .wdtFeed) (e : t = feed s)
  | result (r : Result) (h : ¬ isHandsetOp i) (h' : ¬ isControllerOp i) (e : t = giveBack r s)
  | nothing (h : ¬ isHandsetOp i) (h' : ¬ isControllerOp i) (e : t = s)

theorem not_isHandsetOp_iff (i : Instr) : ¬ isHandsetOp i ↔
    (∀ chunk, i ≠ .rxH chunk) ∧ i ≠ .rxerrH ∧ ∀ a b c k, i ≠ .button a b c k := by
  simp [isHandsetOp]

theorem not_isControllerOp_iff (i : Instr) : ¬ isControllerOp i ↔
    (∀ chunk, i ≠ .rxC chunk) ∧ i ≠ .rxerrC ∧ i ≠ .dispNoheight ∧ i ≠ .dispReset ∧
      (∀ a b c k, i ≠ .dispFault a b c k) ∧ ∀ a b c k, i ≠ .dispValue a b c k := by
  simp [isControllerOp]

theorem Effect.of_cmdWrite {i : Instr} {s t : State} (sl : Slot)
    (h : i = .cmdSlot1 ∨ i = .cmdSlot2 ∨ i = .cmdSlot3 ∨ i = .cmdSlot4) (e : cmdFrameWrite sl s = .next t) : Effect i s t := by
  unfold cmdFrameWrite at e
  split at e
  · rename_i hc
    exact .cmdWrite h hc.1 hc.2.1 e
  · cases e
    refine .nothing ?_ ?_ rfl
    · rw [not_isHandsetOp_iff]; rcases h with rfl | rfl | rfl | rfl <;> simp
    · rw [not_isControllerOp_iff]; rcases h with rfl | rfl | rfl | rfl <;> simp

/-- The cases of `exec`. -/
theorem exec_effect {i : Instr} {s t : State} (h : exec i s = .next t) : Effect i s t := by
  cases i with
  | dispNoheight => exact .controller (by simp [isControllerOp]) (controllerEffect_frame h)
  | dispReset => exact .controller (by simp [isControllerOp]) (controllerEffect_frame h)
  | dispFault => exact .controller (by simp [isControllerOp]) (controllerEffect_frame h)
  | dispValue => exact .controller (by simp [isControllerOp]) (controllerEffect_frame h)
  | button => exact .handset (by simp [isHandsetOp]) (handsetEffect_frame h)
  | cmdSlot1 => exact .of_cmdWrite .s1 (by simp) h
  | cmdSlot2 => exact .of_cmdWrite .s2 (by simp) h
  | cmdSlot3 => exact .of_cmdWrite .s3 (by simp) h
  | cmdSlot4 => exact .of_cmdWrite .s4 (by simp) h
  | keepalive =>
    change kaFrameWrite s = .next t at h
    unfold kaFrameWrite at h
    split at h
    · rename_i hc; exact .kaWrite rfl hc.1 hc.2 h
    · cases h; exact .nothing (by simp [isHandsetOp]) (by simp [isControllerOp]) rfl
  | rxH => exact .handset (by simp [isHandsetOp]) (handsetEffect_rx h)
  | rxC => exact .controller (by simp [isControllerOp]) (controllerEffect_rx h)
  | rxerrH => cases h; exact .handset (by simp [isHandsetOp]) (handsetEffect_error s)
  | rxerrC => cases h; exact .controller (by simp [isControllerOp]) (controllerEffect_error s)
  | tick =>
    simp only [exec, execTick] at h
    split at h
    · rename_i m; exact .tickRun rfl m h
    · rename_i m; cases h; exact .tickDiag rfl m rfl
  | moveTo slot =>
    simp only [exec, execMoveTo] at h
    split at h
    · cases h; exact .result _ (by simp [isHandsetOp]) (by simp [isControllerOp]) rfl
    · rename_i m
      split at h
      · cases h; exact .nothing (by simp [isHandsetOp]) (by simp [isControllerOp]) rfl
      · cases h; exact .nothing (by simp [isHandsetOp]) (by simp [isControllerOp]) rfl
      · rename_i d
        split at h
        · split at h
          · cases h; exact .result _ (by simp [isHandsetOp]) (by simp [isControllerOp]) rfl
          · cases h; exact .moveTo slot _ rfl m d rfl
        · cases h; exact .result _ (by simp [isHandsetOp]) (by simp [isControllerOp]) rfl
  | setRemoteEnabled b =>
    simp only [exec, execSetRemoteEnabled] at h
    split at h
    · rename_i m; cases h; exact .remote b rfl m rfl
    · cases h; exact .nothing (by simp [isHandsetOp]) (by simp [isControllerOp]) rfl
  | currentPosition => cases h; exact .result _ (by simp [isHandsetOp]) (by simp [isControllerOp]) rfl
  | cancel =>
    simp only [exec, execCancel] at h
    split at h
    · rename_i m; cases h; exact .cancel rfl m rfl
    · cases h; exact .nothing (by simp [isHandsetOp]) (by simp [isControllerOp]) rfl
  | grantCmd =>
    simp only [exec, execGrantCmd] at h
    split at h
    · rename_i g
      obtain ⟨m, f, w⟩ := (cmdGrantable_iff s).mp g
      cases h; exact .grantCmd rfl m f w rfl
    · cases h; exact .nothing (by simp [isHandsetOp]) (by simp [isControllerOp]) rfl
  | grantKa =>
    simp only [exec, execGrantKa] at h
    split at h
    · rename_i g
      obtain ⟨m, f, w⟩ := (kaGrantable_iff s).mp g
      cases h; exact .grantKa rfl m f w rfl
    · cases h; exact .nothing (by simp [isHandsetOp]) (by simp [isControllerOp]) rfl
  | reset => cases h; exact .reset rfl rfl
  | checksum => cases h; exact .result _ (by simp [isHandsetOp]) (by simp [isControllerOp]) rfl
  | digitByte => cases h; exact .result _ (by simp [isHandsetOp]) (by simp [isControllerOp]) rfl
  | decodeButton => cases h; exact .result _ (by simp [isHandsetOp]) (by simp [isControllerOp]) rfl
  | decodeDisplay => cases h; exact .result _ (by simp [isHandsetOp]) (by simp [isControllerOp]) rfl
  | encodeCommand slot =>
    simp only [exec, execEncodeCommand] at h
    split at h <;> (cases h; exact .result _ (by simp [isHandsetOp]) (by simp [isControllerOp]) rfl)
  | encodeKeepalive => cases h; exact .result _ (by simp [isHandsetOp]) (by simp [isControllerOp]) rfl
  | signalActivity => cases h; exact .signal rfl rfl
  | wdtFeed => cases h; exact .feed rfl rfl

/-! ### Ticks -/

theorem afterInterval_frame (s : State) :
    afterInterval s = { s with kaTimer := (afterInterval s).kaTimer, kaState := (afterInterval s).kaState } := by
  unfold afterInterval; split <;> rfl

theorem afterInterval_notBurst {s : State} (h : s.kaState ≠ .firingBurst) : (afterInterval s).kaState ≠ .firingBurst := by
  unfold afterInterval
  split
  · dsimp; split <;> simp
  · exact h

theorem afterInterval_wdt (n : Nat) (s : State) :
    afterInterval { s with wdtCnt := n } = { afterInterval s with wdtCnt := n } := by
  unfold afterInterval; dsimp only; split <;> rfl

/-- `CMD_TICK` leaves the keep-alive burst's variables alone. -/
theorem cmdTick_keeps_ka {s t : State} (h : cmdTick s = .next t) :
    t.kaState = s.kaState ∧ t.kaN = s.kaN ∧ t.kaSp = s.kaSp ∧ t.mode = s.mode := by
  rcases cmdTick_next_iff.mp h with ⟨_, rfl⟩ | ⟨_, _, rfl⟩ | ⟨_, _, h⟩
  · simp
  · simp
  · rcases writeCmdBurst_next_iff.mp h with ⟨_, rfl⟩ | ⟨_, rfl⟩ <;> simp

theorem writeCmdBurst_trace {s t : State} (h : writeCmdBurst s = .next t) : ∃ out, t.trace = s.trace ++ out ∧
    (∀ f, .txCtrl f ∈ out → f = slotFrame s.cmdSlot) ∧ (∀ f, .txHand f ∉ out) ∧ .hardReset ∉ out := by
  rcases writeCmdBurst_next_iff.mp h with ⟨_, rfl⟩ | ⟨_, rfl⟩ <;> exact ⟨_, rfl, by simp, by simp, by simp⟩

theorem writeKaBurst_trace {s t : State} (h : writeKaBurst s = .next t) : ∃ out, t.trace = s.trace ++ out ∧
    (∀ f, .txCtrl f ∈ out → f = encodeKeepalive) ∧ (∀ f, .txHand f ∉ out) ∧ .hardReset ∉ out := by
  rcases writeKaBurst_next_iff.mp h with ⟨_, rfl⟩ | ⟨_, rfl⟩ <;> exact ⟨_, rfl, by simp, by simp, by simp⟩

/-- What a tick can put out. -/
theorem tickRun_trace {s t : State} (h : tickRun s = .next t) : ∃ out, t.trace = s.trace ++ out ∧
    (∀ f, .txCtrl f ∈ out →
      (s.cmdState = .burst ∧ f = slotFrame s.cmdSlot) ∨ (s.kaState = .firingBurst ∧ f = encodeKeepalive)) ∧
    (∀ f, .txHand f ∉ out) ∧ (s.wdtCnt ≠ 1 → .hardReset ∉ out) := by
  rcases tickRun_next_iff.mp h with ⟨h1, rfl⟩ | ⟨hw, hk, u, hu, ht⟩
  · exact ⟨[.hardReset], by simp, by simp, by simp, by simp [h1]⟩
  · obtain ⟨e1, -, -, -⟩ := cmdTick_keeps_ka hu
    have hai := afterInterval_frame { s with wdtCnt := s.wdtCnt - 1 }
    have hak := @afterInterval_notBurst { s with wdtCnt := s.wdtCnt - 1 }
    generalize afterInterval { s with wdtCnt := s.wdtCnt - 1 } = v at *
    have vt : v.trace = s.trace := by rw [hai]
    have vc : v.cmdState = s.cmdState := by rw [hai]
    have vs : v.cmdSlot = s.cmdSlot := by rw [hai]
    obtain ⟨o1, a1, b1, c1, d1⟩ : ∃ out, u.trace = v.trace ++ out ∧
        (∀ f, .txCtrl f ∈ out → s.cmdState = .burst ∧ f = slotFrame s.cmdSlot) ∧ (∀ f, .txHand f ∉ out) ∧
        .hardReset ∉ out := by
      rcases cmdTick_next_iff.mp hu with ⟨_, rfl⟩ | ⟨_, _, rfl⟩ | ⟨hb, _, h⟩
      · exact ⟨[], by simp⟩
      · exact ⟨[], by simp⟩
      · obtain ⟨o, a, b, c, d⟩ := writeCmdBurst_trace h
        exact ⟨o, a, fun f hf => ⟨vc ▸ hb, by rw [← vs]; exact b f hf⟩, c, d⟩
    obtain ⟨o2, a2, b2, c2, d2⟩ : ∃ out, t.trace = u.trace ++ out ∧
        (∀ f, .txCtrl f ∈ out → s.kaState = .firingBurst ∧ f = encodeKeepalive) ∧ (∀ f, .txHand f ∉ out) ∧
        .hardReset ∉ out := by
      rcases kaBurstTick_next_iff.mp ht with ⟨_, rfl⟩ | ⟨_, _, rfl⟩ | ⟨hb, _, h⟩
      · exact ⟨[], by simp⟩
      · exact ⟨[], by simp⟩
      · obtain ⟨o, a, b, c, d⟩ := writeKaBurst_trace h
        refine ⟨o, a, fun f hf => ⟨?_, b f hf⟩, c, d⟩
        by_contra hk
        exact hak hk (e1 ▸ hb)
    refine ⟨o1 ++ o2, by rw [a2, a1, vt, List.append_assoc], ?_, ?_, ?_⟩
    · intro f hf
      rcases List.mem_append.mp hf with h | h
      · exact .inl (b1 f h)
      · exact .inr (b2 f h)
    · intro f hf
      rcases List.mem_append.mp hf with h | h
      · exact c1 f h
      · exact c2 f h
    · intro _ hf
      rcases List.mem_append.mp hf with h | h
      · exact d1 h
      · exact d2 h

/-- What a tick that is not an expiry leaves alone, and what it can do to `cmd_state`. -/
theorem tickRun_frame {s t : State} (h : tickRun s = .next t) (hw : s.wdtCnt ≠ 1) :
    t = { s with
      wdtCnt := s.wdtCnt - 1, kaTimer := t.kaTimer, kaState := t.kaState, kaPending := t.kaPending, kaN := t.kaN,
      kaSp := t.kaSp, cmdN := t.cmdN, cmdSp := t.cmdSp, cmdState := t.cmdState, busOwner := t.busOwner, act := t.act,
      trace := t.trace } ∧
    (t.cmdState = s.cmdState ∨ (s.cmdState = .burst ∧ s.cmdN = 1 ∧ t.cmdState = .idle)) := by
  rcases tickRun_next_iff.mp h with ⟨h1, rfl⟩ | ⟨hw, hk, u, hu, ht⟩
  · exact absurd h1 hw
  · have hai := afterInterval_frame { s with wdtCnt := s.wdtCnt - 1 }
    generalize afterInterval { s with wdtCnt := s.wdtCnt - 1 } = v at *
    have h1 : u = { v with
          kaTimer := u.kaTimer, kaPending := u.kaPending, cmdN := u.cmdN, cmdSp := u.cmdSp, cmdState := u.cmdState,
          busOwner := u.busOwner, act := u.act, trace := u.trace } ∧
        (u.cmdState = v.cmdState ∨ (v.cmdState = .burst ∧ v.cmdN = 1 ∧ u.cmdState = .idle)) := by
      rcases cmdTick_next_iff.mp hu with ⟨_, rfl⟩ | ⟨_, _, rfl⟩ | ⟨hb, _, h⟩
      · exact ⟨rfl, .inl rfl⟩
      · exact ⟨rfl, .inl rfl⟩
      · rcases writeCmdBurst_next_iff.mp h with ⟨_, rfl⟩ | ⟨hn, rfl⟩
        · exact ⟨rfl, .inl rfl⟩
        · exact ⟨rfl, .inr ⟨hb, hn, rfl⟩⟩
    obtain ⟨tc, h2⟩ : t.cmdState = u.cmdState ∧ t = { u with
          cmdN := t.cmdN, cmdSp := t.cmdSp, cmdState := t.cmdState, kaTimer := t.kaTimer, kaState := t.kaState,
          kaPending := t.kaPending, kaN := t.kaN, kaSp := t.kaSp, busOwner := t.busOwner, act := t.act,
          trace := t.trace } := by
      rcases kaBurstTick_next_iff.mp ht with ⟨_, rfl⟩ | ⟨_, _, rfl⟩ | ⟨hb, _, h⟩
      · exact ⟨rfl, rfl⟩
      · exact ⟨rfl, rfl⟩
      · rcases writeKaBurst_next_iff.mp h with ⟨_, rfl⟩ | ⟨hn, rfl⟩ <;> exact ⟨rfl, rfl⟩
    have vc : v.cmdState = s.cmdState := by rw [hai]
    have vn : v.cmdN = s.cmdN := by rw [hai]
    rw [vc, vn] at h1
    constructor
    · rw [hai] at h1
      rw [h1.1] at h2
      exact h2
    · rw [tc]
      rcases h1.2 with h | ⟨a, b, c⟩
      · exact .inl h
      · exact .inr ⟨a, b, c⟩

/-- What a tick that is not an expiry can do to `ka_state` (R160). -/
theorem tickRun_kaState {s t : State} (h : tickRun s = .next t) (hw : s.wdtCnt ≠ 1) :
    t.kaState = s.kaState ∨ (s.kaState = .waiting ∧ s.kaTimer = 1 ∧ t.kaState = .firingWait) ∨
    (s.kaState = .firingBurst ∧ s.kaN = 1 ∧ t.kaState = .waiting) := by
  rcases tickRun_next_iff.mp h with ⟨h1, -⟩ | ⟨-, -, u, hu, ht⟩
  · exact absurd h1 hw
  · obtain ⟨uk, un, -, -⟩ := cmdTick_keeps_ka hu
    rw [afterInterval_wdt] at uk un
    have vn : u.kaN = s.kaN := by rw [un, afterInterval_frame s]
    replace uk : u.kaState = (afterInterval s).kaState := uk
    have hv : (afterInterval s).kaState = s.kaState ∨
        (s.kaState = .waiting ∧ s.kaTimer = 1 ∧ (afterInterval s).kaState = .firingWait) := by
      unfold afterInterval
      split
      · by_cases h1 : s.kaTimer = 1 <;> simp_all
      · exact .inl rfl
    rcases kaBurstTick_next_iff.mp ht with ⟨-, rfl⟩ | ⟨-, -, rfl⟩ | ⟨hb, -, h⟩
    · rw [uk]; rcases hv with h | h
      · exact .inl h
      · exact .inr (.inl h)
    · rw [show ({ u with kaSp := u.kaSp - 1 } : State).kaState = u.kaState from rfl, uk]
      rcases hv with h | h
      · exact .inl h
      · exact .inr (.inl h)
    · have hs : s.kaState = .firingBurst := by
        by_contra hs
        exact afterInterval_notBurst hs (uk ▸ hb)
      rcases writeKaBurst_next_iff.mp h with ⟨-, rfl⟩ | ⟨hn, rfl⟩
      · exact .inl (hb.trans hs.symm)
      · exact .inr (.inr ⟨hs, vn ▸ hn, rfl⟩)

end Sys2Proof.Machine
end

