-- ==== Sys2Proof/Laws/Reads.lean ====
section
/-! SUPPORT. What an operation on a line does to its pump: it delivers one `Ok` frame, or it only reports. -/

namespace Sys2Proof.Machine

/-- The operations of line X. -/
def isLineOp (x : Line) (i : Instr) : Prop :=
  match x with
  | .H => isHandsetOp i
  | .C => isControllerOp i

/-- From `s` to `t` only the readers moved and diagnostics were reported: nothing decoded, fed, forwarded or written (R130). -/
def ReportsOnly (s t : State) : Prop :=
  ∃ bH bC rH rC out, t = { s with bufH := bH, bufC := bC, runH := rH, runC := rC, trace := s.trace ++ out } ∧
    ∀ o ∈ out, ∃ d, o = .diag d

theorem ReportsOnly.refl (s : State) : ReportsOnly s s := ⟨s.bufH, s.bufC, s.runH, s.runC, [], by simp, by simp⟩

theorem ReportsOnly.trans {s t u : State} (h1 : ReportsOnly s t) (h2 : ReportsOnly t u) : ReportsOnly s u := by
  obtain ⟨a, b, c, d, o1, rfl, h1⟩ := h1
  obtain ⟨a', b', c', d', o2, rfl, h2⟩ := h2
  refine ⟨a', b', c', d', o1 ++ o2, by simp, fun o ho => ?_⟩
  rcases List.mem_append.mp ho with h | h
  · exact h1 o h
  · exact h2 o h

theorem reportsOnly_setBuf (x : Line) (b : List Byte) (s : State) : ReportsOnly s (setBuf x b s) := by
  cases x
  · exact ⟨b, s.bufC, s.runH, s.runC, [], by simp [setBuf], by simp⟩
  · exact ⟨s.bufH, b, s.runH, s.runC, [], by simp [setBuf], by simp⟩

theorem reportsOnly_setRun (x : Line) (r : RunState) (s : State) : ReportsOnly s (setRun x r s) := by
  cases x
  · exact ⟨s.bufH, s.bufC, r, s.runC, [], by simp [setRun], by simp⟩
  · exact ⟨s.bufH, s.bufC, s.runH, r, [], by simp [setRun], by simp⟩

theorem reportsOnly_diag (d : Diag) (s : State) : ReportsOnly s (raiseDiag d s) :=
  ⟨s.bufH, s.bufC, s.runH, s.runC, [.diag d], rfl, by simp⟩

/-- A pump only reports an outcome other than `Ok` (R130, R136). -/
theorem reportsOnly_pump (x : Line) {o : ReaderOutcome} (s : State) (h : ∀ f, o ≠ .ok f) : ReportsOnly s (pump x o s) := by
  cases o with
  | ok f => exact absurd rfl (h f)
  | _ => exact reportsOnly_diag _ _

/-- Reporting leaves the reader as it was (R130). -/
theorem pump_reader {x : Line} {o : ReaderOutcome} (s : State) (h : ∀ f, o ≠ .ok f) :
    bufOf x (pump x o s) = bufOf x s ∧ (Polls x (pump x o s) ↔ Polls x s) := by
  cases o with
  | ok f => exact absurd rfl (h f)
  | _ => cases x <;> exact ⟨rfl, Iff.rfl⟩

/-! ### Candidates -/

/-- An `Ok` candidate is the five bytes of its frame (R86). -/
theorem classify_ok {c : List Byte} {f : Frame} (h : classify c = .ok f) : c = f.bytes := by
  unfold classify at h
  split at h <;> cases h
  rfl

theorem candidate_length_le (start : Byte) (b : List Byte) : (candidate start b).length ≤ b.length := by
  cases b with
  | nil => simp [candidate]
  | cons a rest => simpa [candidate] using (List.takeWhile_prefix _).length_le

/-- A start byte after the first byte ends the candidate there (R85, R88). -/
theorem candidate_stops (start : Byte) (buf rest : List Byte) (h : buf ≠ []) :
    (candidate start (buf ++ start :: rest)).length ≤ buf.length := by
  cases buf with
  | nil => exact absurd rfl h
  | cons a tail =>
    simp only [List.cons_append, candidate, List.length_cons, Nat.add_le_add_iff_right]
    induction tail with
    | nil => simp
    | cons b bs ih => by_cases hb : b = start <;> simp [hb]; exact ih (by simp)

theorem classify_notOk_of_length {c : List Byte} (h : c.length ≠ 5) (f : Frame) : classify c ≠ .ok f := by
  intro hc
  rw [classify_ok hc] at h
  exact h rfl

/-- A frame that is its own candidate holds no inner start byte (R85). -/
theorem clean_of_candidate {x : Line} {f g : Frame} (hf : f.header = x.start)
    (h : classify (candidate x.start f.bytes) = .ok g) : CleanFrame x f := by
  have hl := congrArg List.length (classify_ok h)
  refine ⟨hf, ?_, ?_, ?_, ?_⟩ <;> intro he <;> revert hl <;>
    simp only [candidate, Frame.bytes, he, List.takeWhile_cons, bne_self_eq_false, List.length_cons, List.length_nil] <;>
    (repeat' split) <;> simp_all

/-! ### Polls -/

/-- Reader X will read nothing more before a reset: it is not polling. -/
theorem pollLine_notPolls {x : Line} {s : State} (chunk : List Byte) (h : ¬ Polls x s) :
    ReportsOnly s (pollLine x chunk s) ∧ ¬ Polls x (pollLine x chunk s) := by
  by_cases hm : s.mode = .run
  · by_cases hr : runOf x s = .running
    · have hc : s.cancel = true := by
        by_contra hc
        exact h ⟨hm, hr, Bool.eq_false_iff.mpr hc⟩
      rw [pollLine_cancelled hm hr hc]
      refine ⟨((reportsOnly_setBuf x [] s).trans (reportsOnly_setRun x _ _)).trans (reportsOnly_diag _ _), fun hp => ?_⟩
      have := hp.2.1
      cases x <;> cases this
    · rw [pollLine_off (.inr (by cases h' : runOf x s; exact absurd h' hr; rfl))]
      exact ⟨ReportsOnly.refl s, h⟩
  · rw [pollLine_off (.inl (by cases h' : s.mode; exact absurd h' hm; rfl))]
    exact ⟨ReportsOnly.refl s, h⟩

/-- A poll of a polling reader delivers the frame its candidate is, or only reports (R84 to R89). -/
theorem pollLine_reads {x : Line} {s : State} (chunk : List Byte) (hp : Polls x s) :
    (∃ f, classify (candidate x.start (accumulated x chunk s)) = .ok f ∧
      pollLine x chunk s = pump x (.ok f) (setBuf x [] s)) ∨
    ((∀ f, classify (candidate x.start (accumulated x chunk s)) ≠ .ok f) ∧ ReportsOnly s (pollLine x chunk s)) := by
  by_cases hl : (accumulated x chunk s).length < 5
  · right
    refine ⟨classify_notOk_of_length ?_, by rw [pollLine_incomplete hp hl]; exact reportsOnly_setBuf x _ s⟩
    have := candidate_length_le x.start (accumulated x chunk s)
    omega
  · rw [pollLine_complete hp (by omega)]
    cases hc : classify (candidate x.start (accumulated x chunk s)) with
    | ok f => exact .inl ⟨f, rfl, rfl⟩
    | _ =>
      refine .inr ⟨by simp, (reportsOnly_setBuf x [] s).trans (reportsOnly_pump x _ ?_)⟩
      simp

theorem serialPolls_notPolls {x : Line} (bs : List Byte) {s t : State} (h : ¬ Polls x s)
    (ht : serialPolls x bs s = .next t) : ReportsOnly s t := by
  induction bs generalizing s with
  | nil => cases ht; exact ReportsOnly.refl _
  | cons b rest ih =>
    obtain ⟨u, hu, hv⟩ := andThen_next_iff.mp ht
    obtain ⟨-, rfl⟩ := rxEvent_next_iff.mp hu
    exact (pollLine_notPolls [b] h).1.trans (ih (pollLine_notPolls [b] h).2 hv)

/-- One byte at a time, at a buffer that stays short or that holds an inner start byte, no frame is delivered. -/
theorem serialPolls_reports {x : Line} (bs : List Byte) {s t : State} (hp : Polls x s)
    (hb : (bufOf x s).length + bs.length ≤ 4 ∨
      ((∃ a front back, bufOf x s = a :: front ++ x.start :: back) ∧ (bufOf x s).length ≤ 4 ∧ bs.length ≤ 4))
    (ht : serialPolls x bs s = .next t) : ReportsOnly s t := by
  induction bs generalizing s with
  | nil => cases ht; exact ReportsOnly.refl _
  | cons b rest ih =>
    obtain ⟨u, hu, hv⟩ := andThen_next_iff.mp ht
    obtain ⟨-, rfl⟩ := rxEvent_next_iff.mp hu
    have hacc : (accumulated x [b] s).length ≤ (bufOf x s).length + 1 := by
      unfold accumulated; split
      · have := (List.dropWhile_suffix (l := [b]) (fun y => y != x.start)).length_le
        simp at this ⊢; omega
      · simp
    by_cases hl : (accumulated x [b] s).length < 5
    · rw [pollLine_incomplete hp hl] at hv
      refine (reportsOnly_setBuf x _ s).trans (ih (polls_setBuf _ hp) ?_ hv)
      rw [bufOf_setBuf_same]
      rcases hb with hb | ⟨⟨a, front, back, he⟩, h4, hr⟩
      · simp at hb; left; omega
      · right
        refine ⟨⟨a, front, back ++ [b], ?_⟩, by omega, by simp at hr; omega⟩
        simp [accumulated, he]
    · rcases hb with hb | ⟨⟨a, front, back, he⟩, h4, hr⟩
      · simp at hb; omega
      · have hs : accumulated x [b] s = (a :: front) ++ x.start :: (back ++ [b]) := by simp [accumulated, he]
        have hshort := candidate_stops x.start (a :: front) (back ++ [b]) (by simp)
        rw [← hs] at hshort
        have hle : (a :: front).length ≤ 3 := by rw [he] at h4; simp at h4 ⊢; omega
        rw [pollLine_complete hp (by omega)] at hv
        have hno := classify_notOk_of_length (c := candidate x.start (accumulated x [b] s)) (by omega)
        obtain ⟨hbuf, hpolls⟩ := pump_reader (x := x) (setBuf x [] s) hno
        refine ((reportsOnly_setBuf x [] s).trans (reportsOnly_pump x _ hno)).trans
          (ih (hpolls.mpr (polls_setBuf [] hp)) (.inl ?_) hv)
        rw [hbuf, bufOf_setBuf_same]
        simp at hr ⊢; omega

/-! ### Operations -/

/-- The row of a frame class delivers its frame where it is clean and the reader's buffer empty, and otherwise only reports. -/
theorem frameArrives_reads {x : Line} {f : Frame} {s t : State} (hf : f.header = x.start) (hb : bufOk x.start (bufOf x s))
    (h : frameArrives x f s = .next t) :
    (Polls x s ∧ CleanFrame x f ∧ bufOf x s = [] ∧ t = pump x (.ok f) (setBuf x [] s)) ∨
    (¬ (Polls x s ∧ CleanFrame x f ∧ bufOf x s = []) ∧ ReportsOnly s t) := by
  by_cases hp : Polls x s
  · have hfit : 1 ≤ s.cfg.chunkMax := by
      unfold frameArrives at h
      split at h
      · rename_i h5; simp [Config.length] at h5; omega
      · obtain ⟨u, hu, -⟩ := andThen_next_iff.mp h
        simpa using (rxEvent_next_iff.mp hu).1
    by_cases he : bufOf x s = []
    · rw [frameArrives_hunting ⟨hp, he, hfit⟩ hf] at h
      cases h
      by_cases hc : CleanFrame x f
      · left
        rw [candidate_clean hc, setBuf_empty he]
        exact ⟨hp, hc, he, rfl⟩
      · exact .inr ⟨fun h => hc h.2.1, reportsOnly_pump x _ fun g hg => hc (clean_of_candidate hf hg)⟩
    · refine .inr ⟨fun h => he h.2.2, ?_⟩
      have hacc : ∀ bs, accumulated x bs s = bufOf x s ++ bs := fun bs => by simp [accumulated, he]
      unfold frameArrives at h
      split at h
      · obtain ⟨-, rfl⟩ := rxEvent_next_iff.mp h
        rcases pollLine_reads f.bytes hp with ⟨g, hg, -⟩ | ⟨-, hr⟩
        · refine absurd hg (classify_notOk_of_length ?_ g)
          rw [hacc, Frame.bytes, hf]
          have := candidate_stops x.start (bufOf x s) [f.p0, f.p1, f.p2, f.ck] he
          have := hb.1
          omega
        · exact hr
      · rw [Frame.bytes, serialPolls] at h
        obtain ⟨u, hu, hv⟩ := andThen_next_iff.mp h
        obtain ⟨-, rfl⟩ := rxEvent_next_iff.mp hu
        rw [hf] at hv
        have h4 := hb.1
        obtain ⟨a, front, hbuf⟩ : ∃ a front, bufOf x s = a :: front := by
          cases h' : bufOf x s with
          | nil => exact absurd h' he
          | cons a front => exact ⟨a, front, rfl⟩
        by_cases hl : (accumulated x [x.start] s).length < 5
        · rw [pollLine_incomplete hp hl] at hv
          refine (reportsOnly_setBuf x _ s).trans (serialPolls_reports _ (polls_setBuf _ hp) (.inr ?_) hv)
          rw [bufOf_setBuf_same]
          exact ⟨⟨a, front, [], by rw [hacc, hbuf]⟩, by omega, by simp⟩
        · have hshort := candidate_stops x.start (bufOf x s) [] he
          rw [← hacc] at hshort
          rw [pollLine_complete hp (by omega)] at hv
          have hno := classify_notOk_of_length (c := candidate x.start (accumulated x [x.start] s)) (by omega)
          obtain ⟨hbuf', hpolls⟩ := pump_reader (x := x) (setBuf x [] s) hno
          refine ((reportsOnly_setBuf x [] s).trans (reportsOnly_pump x _ hno)).trans
            (serialPolls_reports _ (hpolls.mpr (polls_setBuf [] hp)) (.inl ?_) hv)
          rw [hbuf', bufOf_setBuf_same]
          simp
  · refine .inr ⟨fun h => hp h.1, ?_⟩
    unfold frameArrives at h
    split at h
    · obtain ⟨-, rfl⟩ := rxEvent_next_iff.mp h
      exact (pollLine_notPolls _ hp).1
    · exact serialPolls_notPolls _ hp h

theorem reportsOnly_error (x : Line) (s : State) : ReportsOnly s (errorLine x s) := by
  by_cases hp : Polls x s
  · rw [errorLine_polls hp]; exact (reportsOnly_setBuf x [] s).trans (reportsOnly_diag _ _)
  · by_cases ho : s.mode = .diag ∨ runOf x s = .stopped
    · rw [errorLine_off ho]; exact ReportsOnly.refl s
    · have hm : s.mode = .run := by cases h : s.mode; rfl; exact absurd (.inl h) ho
      have hr : runOf x s = .running := by cases h : runOf x s; rfl; exact absurd (.inr h) ho
      have hc : s.cancel = true := by
        by_contra hc
        exact hp ⟨hm, hr, Bool.eq_false_iff.mpr hc⟩
      rw [errorLine_cancelled hm hr hc]
      exact ((reportsOnly_setBuf x [] s).trans (reportsOnly_setRun x _ _)).trans (reportsOnly_diag _ _)

/-- What an operation of line X does: it delivers one `Ok` frame and pump X handles it, or it only reports. -/
def Delivers (x : Line) (i : Instr) (s t : State) : Prop :=
  (∃ f, readsOk x f i s ∧ t = pump x (.ok f) (setBuf x [] s)) ∨ ((∀ f, ¬ readsOk x f i s) ∧ ReportsOnly s t)

theorem delivers_rx {x : Line} {chunk : List Byte} {s t : State} (hrow : ∀ f, ¬ isFrameRow x f (rxInstr x chunk))
    (hinj : ∀ c, rxInstr x chunk = rxInstr x c → chunk = c) (h : rxEvent x chunk s = .next t) :
    Delivers x (rxInstr x chunk) s t := by
  obtain ⟨-, rfl⟩ := rxEvent_next_iff.mp h
  by_cases hp : Polls x s
  · rcases pollLine_reads chunk hp with ⟨f, hf, ht⟩ | ⟨hno, hr⟩
    · exact .inl ⟨f, ⟨hp, .inl ⟨chunk, rfl, hf⟩⟩, ht⟩
    · refine .inr ⟨?_, hr⟩
      rintro f ⟨-, ⟨c, hc, hf⟩ | ⟨hf, -⟩⟩
      · rw [← hinj c hc] at hf; exact hno f hf
      · exact hrow f hf
  · exact .inr ⟨fun f hf => hp hf.1, (pollLine_notPolls chunk hp).1⟩

theorem delivers_frame {x : Line} {f : Frame} {i : Instr} {s t : State} (hrow : ∀ g, isFrameRow x g i ↔ g = f)
    (hrx : ∀ chunk, i ≠ rxInstr x chunk) (hb : bufOk x.start (bufOf x s)) (h : frameArrives x f s = .next t) :
    Delivers x i s t := by
  rcases frameArrives_reads ((hrow f).mpr rfl).1 hb h with ⟨hp, hc, he, ht⟩ | ⟨hno, hr⟩
  · exact .inl ⟨f, ⟨hp, .inr ⟨(hrow f).mpr rfl, hc, he⟩⟩, ht⟩
  · refine .inr ⟨?_, hr⟩
    rintro g ⟨hp, ⟨c, hc, -⟩ | ⟨hg, hc, he⟩⟩
    · exact hrx c hc
    · rw [(hrow g).mp hg] at hc; exact hno ⟨hp, hc, he⟩

theorem delivers_error {x : Line} {i : Instr} (s : State) (hrow : ∀ g, ¬ isFrameRow x g i)
    (hrx : ∀ chunk, i ≠ rxInstr x chunk) : Delivers x i s (errorLine x s) := by
  refine .inr ⟨?_, reportsOnly_error x s⟩
  rintro g ⟨-, ⟨c, hc, -⟩ | ⟨hg, -⟩⟩
  · exact hrx c hc
  · exact hrow g hg

/-- Only an operation of the line delivers a frame of it. -/
theorem readsOk_lineOp {x : Line} {f : Frame} {i : Instr} {s : State} (h : readsOk x f i s) : isLineOp x i := by
  rcases h with ⟨-, ⟨c, rfl, -⟩ | ⟨⟨-, hi⟩, -⟩⟩
  · cases x <;> simp [isLineOp, rxInstr, isHandsetOp, isControllerOp]
  · cases x with
    | H => cases hi; simp [isLineOp, isHandsetOp]
    | C => rcases hi with ⟨rfl, -⟩ | ⟨rfl, -⟩ | rfl | rfl <;> simp [isLineOp, isControllerOp]

/-- Every operation of line X, from a buffer the reader can leave, delivers one frame or only reports. -/
theorem line_delivers {x : Line} {i : Instr} {s t : State} (hi : isLineOp x i) (hb : bufOk x.start (bufOf x s))
    (h : exec i s = .next t) : Delivers x i s t := by
  cases x with
  | H =>
    rcases hi with ⟨chunk, rfl⟩ | rfl | ⟨a, b, c, k, rfl⟩
    · exact delivers_rx (x := .H) (by simp [isFrameRow, rxInstr]) (by simp [rxInstr]) h
    · cases h; exact delivers_error s (by simp [isFrameRow]) (by simp [rxInstr])
    · refine delivers_frame (f := ⟨Config.startH, a, b, c, k⟩) ?_ (by simp [rxInstr]) hb h
      rintro ⟨h0, g0, g1, g2, g3⟩
      simp [isFrameRow, Line.start, eq_comm]
  | C =>
    rcases hi with ⟨chunk, rfl⟩ | rfl | rfl | rfl | ⟨a, b, c, k, rfl⟩ | ⟨a, b, c, k, rfl⟩
    · exact delivers_rx (x := .C) (by simp [isFrameRow, rxInstr]) (by simp [rxInstr]) h
    · cases h; exact delivers_error s (by simp [isFrameRow]) (by simp [rxInstr])
    · refine delivers_frame (f := ⟨Config.startC, 0x00#8, 0x00#8, 0x00#8, 0x00#8⟩) ?_ (by simp [rxInstr]) hb h
      rintro ⟨h0, g0, g1, g2, g3⟩
      simp [isFrameRow, Line.start, Frame.payload, zeroPayload]
    · refine delivers_frame (f := ⟨Config.startC, 0x77#8, 0x6D#8, 0x78#8, 0x5C#8⟩) ?_ (by simp [rxInstr]) hb h
      rintro ⟨h0, g0, g1, g2, g3⟩
      simp [isFrameRow, Line.start, Frame.payload, resetPayload]
    · refine delivers_frame (f := ⟨Config.startC, a, b, c, k⟩) ?_ (by simp [rxInstr]) hb h
      rintro ⟨h0, g0, g1, g2, g3⟩
      simp [isFrameRow, Line.start, eq_comm]
    · refine delivers_frame (f := ⟨Config.startC, a, b, c, k⟩) ?_ (by simp [rxInstr]) hb h
      rintro ⟨h0, g0, g1, g2, g3⟩
      simp [isFrameRow, Line.start, eq_comm]

/-- A delivered frame feeds the watchdog, whatever it holds (R131). -/
theorem pump_ok_feeds (x : Line) (f : Frame) (s : State) : (pump x (.ok f) s).wdtCnt = s.cfg.wdtTimeout := by
  cases x with
  | H => show (pumpHOk f s).wdtCnt = _; rw [pumpHOk_eq]
  | C =>
    show (pumpCOk f s).wdtCnt = _
    obtain ⟨out, h1, -⟩ := actOnDisplay_eq f (decodeDisplay s.cfg.digit f.payload) (feed s)
    rw [pumpCOk, passThrough_eq, h1]
    rfl

/-- A delivered controller frame writes the position exactly to the value it decodes to with a good checksum (R137). -/
theorem pumpC_ok_pos (f : Frame) (s : State) : (pump .C (.ok f) s).pos = s.pos ∨
    decodeDisplay s.cfg.digit f.payload = .value (pump .C (.ok f) s).pos.mantissa (pump .C (.ok f) s).pos.exponent false := by
  show (pumpCOk f s).pos = _ ∨ _ = DisplayResult.value (pumpCOk f s).pos.mantissa (pumpCOk f s).pos.exponent false
  rw [pumpCOk, passThrough_eq]
  cases h : decodeDisplay s.cfg.digit f.payload with
  | value m e bad =>
    cases bad
    · exact .inr rfl
    · exact .inl rfl
  | _ => exact .inl rfl

end Sys2Proof.Machine
end

