-- ==== Sys2Proof/Laws/Text.lean ====
section
/-! SUPPORT. Text: numbers and words that are written are read back. -/

namespace Sys2Proof

theorem hexVal_hexDigit : ∀ n, n < 16 → hexVal (hexDigit n) = some n := by decide

theorem decVal_hexDigit : ∀ n, n < 10 → decVal (hexDigit n) = some n := by decide

theorem parseHexByte_hexByte (b : Byte) : parseHexByte (hexByte b) = some b := by
  have h1 : b.toNat / 16 < 16 := by have := b.isLt; omega
  have h2 : b.toNat % 16 < 16 := Nat.mod_lt _ (by omega)
  have h3 : 16 * (b.toNat / 16) + b.toNat % 16 = b.toNat := Nat.div_add_mod _ _
  simp [parseHexByte, hexByte, hexVal_hexDigit _ h1, hexVal_hexDigit _ h2, h3]

theorem parseBytes_map_hexByte (bs : List Byte) : parseBytes (bs.map hexByte) = some bs := by
  induction bs with
  | nil => rfl
  | cons b bs ih => simp [parseBytes, parseHexByte_hexByte, ih]

theorem parseDecFrom_append (acc : Nat) (w : List Byte) (c : Byte) :
    parseDecFrom acc (w ++ [c]) = (parseDecFrom acc w).bind fun m => (decVal c).map fun d => 10 * m + d := by
  induction w generalizing acc with
  | nil => cases h : decVal c <;> simp [parseDecFrom, h]
  | cons b bs ih => cases h : decVal b <;> simp [parseDecFrom, h, ih]

theorem decDigits_ne_nil (fuel n : Nat) : decDigits (fuel + 1) n ≠ [] := by
  rw [decDigits]; split <;> simp

theorem parseDecFrom_decDigits (fuel n : Nat) (h : n < fuel) : parseDecFrom 0 (decDigits fuel n) = some n := by
  induction fuel generalizing n with
  | zero => omega
  | succ fuel ih =>
    rw [decDigits]
    split
    · rename_i h1; simp [parseDecFrom, decVal_hexDigit n h1]
    · have h3 : 10 * (n / 10) + n % 10 = n := Nat.div_add_mod _ _
      rw [parseDecFrom_append, ih (n / 10) (by omega)]
      simp [decVal_hexDigit (n % 10) (by omega), h3]

/-- A number that is written is read back, whatever its size. -/
theorem parseDec_decWord (n : Nat) : parseDec (decWord n) = some n := by
  have h := parseDecFrom_decDigits (n + 1) n (by omega)
  have h0 := decDigits_ne_nil n n
  rw [decWord]
  generalize decDigits (n + 1) n = w at *
  cases w with
  | nil => exact absurd rfl h0
  | cons b bs => exact h

theorem parseDecByte_decWord (b : Byte) : parseDecByte (decWord b.toNat) = some b := by
  have h := b.isLt
  simp [parseDecByte, parseDec_decWord, h]

/-- A word that stands whole on a line: not empty, no space, no semicolon. -/
def PlainWord (w : List Byte) : Prop := w ≠ [] ∧ ∀ b ∈ w, b ≠ 0x20#8 ∧ b ≠ 0x3B#8

theorem PlainWord.of_check {w : List Byte} (h : (!w.isEmpty && w.all fun b => b != 0x20#8 && b != 0x3B#8) = true) :
    PlainWord w := by
  simp only [Bool.and_eq_true, Bool.not_eq_true', List.all_eq_true, bne_iff_ne, ne_eq] at h
  exact ⟨by rintro rfl; simp at h, fun b hb => h.2 b hb⟩

theorem plain_hexDigit : ∀ n, n < 16 → hexDigit n ≠ 0x20#8 ∧ hexDigit n ≠ 0x3B#8 := by decide

theorem plainWord_hexByte (b : Byte) : PlainWord (hexByte b) := by
  refine ⟨by simp [hexByte], fun c hc => ?_⟩
  simp only [hexByte, List.mem_cons, List.not_mem_nil, or_false] at hc
  rcases hc with rfl | rfl <;> exact plain_hexDigit _ (by have := b.isLt; omega)

theorem plain_decDigits (fuel n : Nat) : ∀ c ∈ decDigits fuel n, c ≠ 0x20#8 ∧ c ≠ 0x3B#8 := by
  induction fuel generalizing n with
  | zero => simp [decDigits]
  | succ fuel ih =>
    intro c hc
    rw [decDigits] at hc
    split at hc
    · rename_i h1
      rw [List.mem_singleton.mp hc]
      exact plain_hexDigit n (by omega)
    · rcases List.mem_append.mp hc with h | h
      · exact ih _ c h
      · rw [List.mem_singleton.mp h]
        exact plain_hexDigit _ (by omega)

theorem plainWord_decWord (n : Nat) : PlainWord (decWord n) := ⟨decDigits_ne_nil n n, plain_decDigits (n + 1) n⟩

theorem wordsFrom_append (cur w rest : List Byte) (h : ∀ b ∈ w, b ≠ 0x20#8) :
    wordsFrom cur (w ++ rest) = wordsFrom (cur ++ w) rest := by
  induction w generalizing cur with
  | nil => simp
  | cons b bs ih =>
    rw [List.cons_append, wordsFrom, if_neg (h b (by simp)), ih _ (fun c hc => h c (by simp [hc]))]
    simp

theorem wordsFrom_joinWords (ws : List (List Byte)) (h : ∀ w ∈ ws, PlainWord w) : wordsFrom [] (joinWords ws) = ws := by
  induction ws with
  | nil => rfl
  | cons w rest ih =>
    have hw := h w (by simp)
    cases rest with
    | nil =>
      have := wordsFrom_append [] w [] (fun b hb => (hw.2 b hb).1)
      simp only [List.append_nil, List.nil_append] at this
      rw [joinWords, this]
      simp [wordsFrom, hw.1]
    | cons v vs =>
      rw [joinWords]
      · rw [wordsFrom_append [] w _ (fun b hb => (hw.2 b hb).1)]
        simp only [List.nil_append, wordsFrom, if_true]
        rw [ih (fun x hx => h x (by simp [hx]))]
        simp [hw.1]
      · simp

theorem stripComment_eq (l : List Byte) (h : ∀ b ∈ l, b ≠ 0x3B#8) : stripComment l = l := by
  induction l with
  | nil => rfl
  | cons b bs ih => rw [stripComment, if_neg (h b (by simp)), ih (fun c hc => h c (by simp [hc]))]

theorem joinWords_noComment (ws : List (List Byte)) (h : ∀ w ∈ ws, PlainWord w) : ∀ b ∈ joinWords ws, b ≠ 0x3B#8 := by
  induction ws with
  | nil => simp [joinWords]
  | cons w rest ih =>
    have hw := h w (by simp)
    cases rest with
    | nil => simp only [joinWords]; exact fun b hb => (hw.2 b hb).2
    | cons v vs =>
      intro b hb
      simp only [joinWords, List.mem_append, List.mem_cons] at hb
      rcases hb with hb | rfl | hb
      · exact (hw.2 b hb).2
      · decide
      · exact ih (fun x hx => h x (by simp [hx])) b hb

/-- A line is read back word by word. -/
theorem lineWords_joinWords (ws : List (List Byte)) (h : ∀ w ∈ ws, PlainWord w) : lineWords (joinWords ws) = ws := by
  rw [lineWords, stripComment_eq _ (joinWords_noComment ws h), wordsFrom_joinWords ws h]

/-- An item that stands for a line of plain words is decoded by its first word. -/
theorem decode_scriptItem (d : DigitTable) (kw : List Byte) (args : List (List Byte)) (h : PlainWord kw)
    (h' : ∀ w ∈ args, PlainWord w) : decode d (scriptItem (kw :: args)) = decodeWord kw args := by
  simp only [decode, scriptItem, decodeLine]
  rw [lineWords_joinWords]
  intro w hw
  rcases List.mem_cons.mp hw with rfl | hw
  · exact h
  · exact h' w hw

end Sys2Proof
end

