-- ==== Sys2Proof/Machine/Script.lean ====
section
/-! DEFINITION. The stimulus script of 30_encoding.md R71 (its pseudo-lines expanded, its lines loaded as pending operations) and the
written form of outputs of R72. Nothing in the hardware parses either. -/

namespace Sys2Proof.Machine

/-- The items of several operations. -/
def itemsOf (is : List Instr) : List Item := is.map encode

/-- The chunk of a pseudo-line `frameh` or `framec`: the payload with its valid checksum (R71). -/
def checkedFrame (x : Line) (a b c : Byte) : List Byte := [x.start, a, b, c, checksum a b c]

/-- A line that is not a pseudo-line: itself, where it decodes. -/
def plainLine (line : List Byte) : Except DecodeError (List Item) :=
  match decodeLine line with
  | .ok _ => .ok [⟨.script, line⟩]
  | .error e => .error e

/-- `tick n`: `n` lines `tick`; `tick` alone is a line (R71). -/
def expandTick (line : List Byte) (args : List (List Byte)) : Except DecodeError (List Item) :=
  match args with
  | [w] =>
    match parseDec w with
    | some n => .ok (List.replicate n (encode .tick))
    | none => .error .badOperands
  | _ => plainLine line

/-- `bytesh b0 ... bn`, `bytesc b0 ... bn`: one poll for each byte (R71). -/
def expandBytes (f : List Byte → Instr) (args : List (List Byte)) : Except DecodeError (List Item) :=
  match parseBytes args with
  | some (b :: rest) => .ok (itemsOf ((b :: rest).map fun y => f [y]))
  | _ => .error .badOperands

/-- `frameh p0 p1 p2`, `framec p0 p1 p2` (R71). -/
def expandFrame (x : Line) (f : List Byte → Instr) (args : List (List Byte)) : Except DecodeError (List Item) :=
  match parseBytes args with
  | some [a, b, c] => .ok [encode (f (checkedFrame x a b c))]
  | _ => .error .badOperands

/-- `press mm`: a handset frame in the form of R67 with mask `mm` (R71). -/
def expandPress (args : List (List Byte)) : Except DecodeError (List Item) :=
  match parseBytes args with
  | some [m] => .ok [encode (.rxH (synthFrame m).bytes)]
  | _ => .error .badOperands

/-- A line or pseudo-line as the operations it stands for. A line with no word on it (a comment) stands for none. -/
def expandLine (line : List Byte) : Except DecodeError (List Item) :=
  match lineWords line with
  | [] => .ok []
  | kw :: args =>
    if kw = asc "tick" then expandTick line args
    else if kw = asc "bytesh" then expandBytes .rxH args
    else if kw = asc "bytesc" then expandBytes .rxC args
    else if kw = asc "frameh" then expandFrame .H .rxH args
    else if kw = asc "framec" then expandFrame .C .rxC args
    else if kw = asc "press" then expandPress args
    else plainLine line

/-- A script, executed from top to bottom (R71). -/
def expandScript : List (List Byte) → Except DecodeError (List Item)
  | [] => .ok []
  | line :: rest =>
    match expandLine line, expandScript rest with
    | .ok a, .ok b => .ok (a ++ b)
    | .error e, _ => .error e
    | .ok _, .error e => .error e

/-- A state with a script loaded after what is already pending. -/
def loadScript (script : List (List Byte)) (s : State) : Except DecodeError State :=
  match expandScript script with
  | .ok items => .ok { s with stim := s.stim ++ items }
  | .error e => .error e

/-! ### The written form of outputs (R72; the data of diagnostics as 95_test_vectors.md section 0 writes them) -/

/-- Bytes as words. -/
def wordsOfBytes (bs : List Byte) : List (List Byte) := bs.map hexByte

/-- A bit. -/
def bitWord (b : Bool) : List Byte := if b then asc "1" else asc "0"

/-- A byte sequence in square brackets. -/
def bracketed (bs : List Byte) : List Byte := asc "[" ++ joinWords (wordsOfBytes bs) ++ asc "]"

/-- The letter of a line. -/
def lineWord : Line → List Byte
  | .H => asc "H"
  | .C => asc "C"

/-- The symbols of a key-set, in bit order (R63). -/
def keySymbols (keys : KeySet) : List (List Byte) :=
  ([(0, asc "m"), (1, asc "1"), (2, asc "2"), (3, asc "3"), (4, asc "4"), (5, asc "u"), (6, asc "d")].filter
    fun p => keys.getLsbD p.1).map Prod.snd

/-- Words with commas between them. -/
def commaJoin : List (List Byte) → List Byte
  | [] => []
  | [w] => w
  | w :: rest => w ++ asc "," ++ commaJoin rest

/-- Text in braces, whose ASCII codes are 7B and 7D. -/
def braced (w : List Byte) : List Byte := [0x7B#8] ++ w ++ [0x7D#8]

/-- An exponent -2..0, written with its sign. -/
def intWord (e : Int) : List Byte := if e < 0 then asc "-" ++ decWord e.natAbs else decWord e.natAbs

/-- A format-error reason. -/
def reasonWord : FormatReason → List Byte
  | .dupDp => asc "DupDp"
  | .nonDigit => asc "NonDigit"

/-- An error result. -/
def errorWord : HostError → List Byte
  | .remoteDisabled => asc "Error(RemoteDisabled)"
  | .badSlot => asc "Error(BadSlot)"
  | .notRunning => asc "Error(NotRunning)"

/-- A diagnostic's words. -/
def diagWords : Diag → List (List Byte)
  | .framingShort x s => [asc "FramingShort", lineWord x, bracketed s]
  | .framingLong x f good => [asc "FramingLong", lineWord x, bracketed f.bytes, asc "ck_ok=" ++ bitWord good]
  | .readError x s => [asc "ReadError", lineWord x, bracketed s]
  | .checksumMismatch x f => [asc "ChecksumMismatch", lineWord x, bracketed f.bytes]
  | .formatError x why f => [asc "FormatError", lineWord x, reasonWord why, bracketed f.bytes]
  | .controllerFault code bad => [asc "ControllerFault", decWord code, asc "ck_bad=" ++ bitWord bad]
  | .displayReset => [asc "DisplayReset"]
  | .keysChanged keys isNone =>
    [asc "KeysChanged", braced (commaJoin (keySymbols keys))] ++ (if isNone then [asc "none"] else [])
  | .canceled x => [asc "Canceled", lineWord x]
  | .initFail => [asc "InitFail"]

/-- A glyph as its character, `?` for the placeholder (R9). -/
def glyphWord : Option Glyph → List Byte
  | some (.digit n) => decWord n.val
  | some .r => asc "R"
  | some .t => asc "T"
  | some .e => asc "E"
  | none => asc "?"

/-- A result's words. The results of the pure functions are written in the model's own way (log 14). -/
def resultWords : Result → List (List Byte)
  | .ok => [asc "Ok"]
  | .error e => [errorWord e]
  | .position p => [braced (decWord p.mantissa ++ asc ", " ++ intWord p.exponent)]
  | .byte b => [hexByte b]
  | .digit g dp => [glyphWord g, bitWord dp]
  | .buttons r => [braced (commaJoin (keySymbols r.keys)), bitWord r.isNone, bitWord r.ckBad]
  | .display .noHeight => [asc "NoHeight"]
  | .display .reset => [asc "Reset"]
  | .display (.fault code bad) => [asc "Fault", decWord code, bitWord bad]
  | .display (.value m e bad) => [asc "Value", decWord m, intWord e, bitWord bad]
  | .display (.formatError why) => [asc "FormatError", reasonWord why]
  | .frame f => wordsOfBytes f.bytes

/-- An output as a line, prefixed `->` (R72). -/
def outputLine : Output → List Byte
  | .txCtrl f => joinWords (asc "->" :: asc "txctrl" :: wordsOfBytes f.bytes)
  | .txHand f => joinWords (asc "->" :: asc "txhand" :: wordsOfBytes f.bytes)
  | .act v => joinWords [asc "->", asc "act", bitWord v]
  | .diag d => joinWords (asc "->" :: asc "diag" :: diagWords d)
  | .ret r => joinWords (asc "->" :: asc "ret" :: resultWords r)
  | .hardReset => joinWords [asc "->", asc "hardreset"]

end Sys2Proof.Machine
end

