-- ==== Sys2Proof/Tests/Slice0.lean ====
section
/-! SUPPORT. Tests by evaluation: ill-formed operations, the decoding of written-out words and lines, one-step tests taken from the examples
of 95_test_vectors.md, and a witness for the hypotheses of each statement that has any. -/

namespace Sys2Proof.Tests

open Sys2Proof.Machine

/-! ### Helpers -/

/-- The reset state under the test parameters (file 95 section 0). -/
def base : State := State.resetOf paramsT

/-- The parameters of set T with a failed initialisation. -/
def badParams : Params := { paramsT with initOk := false }

/-- The block in `Diag`. -/
def inDiag : State := State.resetOf badParams

/-- A command for preset `sl` waits for the bus. -/
def waiting (sl : Slot) : State := { base with cmdState := .waitLock, cmdSlot := sl }

/-- A command burst for preset `sl`: `n` writes to make, `sp` ticks to the next. -/
def inCmdBurst (sl : Slot) (n sp : Nat) : State :=
  { base with cmdState := .burst, cmdSlot := sl, cmdN := n, cmdSp := sp, busOwner := .cmd, act := true }

/-- The keep-alive task waits for the bus. -/
def kaWaits : State := { base with kaState := .firingWait, kaTimer := 0 }

/-- A keep-alive burst. -/
def inKaBurst (n sp : Nat) : State :=
  { base with kaState := .firingBurst, kaTimer := 0, kaN := n, kaSp := sp, busOwner := .ka, act := true }

/-- After a cancellation. -/
def cancelled : State := { base with cancel := true, kaState := .stopped }

/-- Both loops stopped after a cancellation. -/
def stopped : State := { cancelled with runH := .stopped, runC := .stopped }

/-- The next state of an outcome, if it has one. -/
def after : Out → Option State
  | .next s => some s
  | .fault _ => none
  | .refused _ => none

/-- What an operation puts out from a state whose trace is empty. -/
def outs (i : Instr) (s : State) : Option (List Output) := (after (exec i s)).map State.trace

/-- A field of the next state. -/
def post {α : Type} (f : State → α) (i : Instr) (s : State) : Option α := (after (exec i s)).map f

/-- What an item decodes to, under the default digit table. -/
def reads (it : Item) : Option Instr :=
  match decode (defaultDigits none) it with
  | .ok i => some i
  | .error _ => none

/-- A line of text as an item. -/
def line (w : String) : Item := ⟨.script, asc w⟩

/-! ### Ill-formed operations (R66, R40) -/

theorem test_fault_class_needs_E : (Instr.dispFault 0x06#8 0x06#8 0x06#8 0x12#8).wellFormed paramsT = false := by decide
theorem test_fault_class_not_noheight : (Instr.dispFault 0x00#8 0x00#8 0x00#8 0x00#8).wellFormed
    { paramsT with digit := [(0x00#7, .e)] } = false := by decide
theorem test_fault_class_not_reset : (Instr.dispFault 0x77#8 0x6D#8 0x78#8 0x5C#8).wellFormed
    { paramsT with digit := [(0x77#7, .e)] } = false := by decide
theorem test_value_class_no_E : (Instr.dispValue 0x79#8 0x06#8 0x06#8 0x85#8).wellFormed paramsT = false := by decide
theorem test_value_class_not_noheight : (Instr.dispValue 0x00#8 0x00#8 0x00#8 0x00#8).wellFormed paramsT = false := by decide
theorem test_value_class_not_reset : (Instr.dispValue 0x77#8 0x6D#8 0x78#8 0x5C#8).wellFormed paramsT = false := by decide
theorem test_chunk_fits_H : (Instr.rxH (List.replicate 10 0#8)).wellFormed paramsT = true ∧
    (Instr.rxH (List.replicate 11 0#8)).wellFormed paramsT = false := by decide
theorem test_chunk_fits_C : (Instr.rxC (List.replicate 10 0#8)).wellFormed paramsT = true ∧
    (Instr.rxC (List.replicate 11 0#8)).wellFormed paramsT = false := by decide

/-! ### Decoding: every constructor from a word or line written out -/

-- Frames: the class table R66 and the generated frames R67.
theorem test_decode_dispNoheight : decodeTableWord 40 0x5A00000000 = some .dispNoheight := by decide
theorem test_decode_dispReset : decodeTableWord 40 0x5A776D785C = some .dispReset := by decide
theorem test_decode_dispFault :
    decodeTableWord 40 0x5A79065BDA = some (.dispFault 0x79#8 0x06#8 0x5B#8 0xDA#8) := by decide
theorem test_decode_dispValue :
    decodeTableWord 40 0x5A865B4F30 = some (.dispValue 0x86#8 0x5B#8 0x4F#8 0x30#8) := by decide
theorem test_decode_button :
    decodeTableWord 40 0xA512413487 = some (.button 0x12#8 0x41#8 0x34#8 0x87#8) := by decide
theorem test_decode_cmdSlot1 : decodeTableWord 40 0xA50002FDFF = some .cmdSlot1 := by decide
theorem test_decode_cmdSlot2 : decodeTableWord 40 0xA50004FBFF = some .cmdSlot2 := by decide
theorem test_decode_cmdSlot3 : decodeTableWord 40 0xA50008F7FF = some .cmdSlot3 := by decide
theorem test_decode_cmdSlot4 : decodeTableWord 40 0xA50010EFFF = some .cmdSlot4 := by decide
theorem test_decode_keepalive : decodeTableWord 40 0xA500609FFF = some .keepalive := by decide
theorem test_decode_digitByte : decodeTableWord 8 0xDB = some (.digitByte 0xDB#8) := by decide
theorem test_decode_other_header : decodeTableWord 40 0x1300000000 = none := by decide
theorem test_decode_generated_on_handset_line :
    reads ⟨.handset, [0xA5#8, 0x00#8, 0x60#8, 0x9F#8, 0xFF#8]⟩ = some (.button 0x00#8 0x60#8 0x9F#8 0xFF#8) := by decide
theorem test_decode_not_five : reads ⟨.controller, [0x5A#8, 0x06#8]⟩ = none := by decide

-- Lines: R71, one whole line in ASCII codes, the others as text.
theorem test_decode_tick_ascii : reads ⟨.script, [0x74#8, 0x69#8, 0x63#8, 0x6B#8]⟩ = some .tick := by decide
theorem test_decode_rxH : reads (line "rxh A5 00 02") = some (.rxH [0xA5#8, 0x00#8, 0x02#8]) := by decide
theorem test_decode_rxC_empty : reads (line "rxc ; nothing available") = some (.rxC []) := by decide
theorem test_decode_rxerrH : reads (line "rxerrh") = some .rxerrH := by decide
theorem test_decode_rxerrC : reads (line "rxerrc") = some .rxerrC := by decide
theorem test_decode_moveTo : reads (line "move 255") = some (.moveTo 0xFF#8) := by decide
theorem test_decode_setRemoteEnabled : reads (line "remote 1") = some (.setRemoteEnabled true) := by decide
theorem test_decode_currentPosition : reads (line "pos") = some .currentPosition := by decide
theorem test_decode_cancel : reads (line "cancel") = some .cancel := by decide
theorem test_decode_grantCmd : reads (line "grant cmd") = some .grantCmd := by decide
theorem test_decode_grantKa : reads (line "grant ka") = some .grantKa := by decide
theorem test_decode_bad_line : reads (line "move 256") = none ∧ reads (line "rxh A5 0") = none := by decide

-- Rows that R71 has no line for: the model's own spelling (log 4).
theorem test_decode_reset : reads (line "RESET") = some .reset := by decide
theorem test_decode_checksum : reads (line "CHECKSUM 77 6D 78") = some (.checksum 0x77#8 0x6D#8 0x78#8) := by decide
theorem test_decode_decodeButton :
    reads (line "DECODE_BUTTON 00 20 DF FF") = some (.decodeButton 0x00#8 0x20#8 0xDF#8 0xFF#8) := by decide
theorem test_decode_decodeDisplay :
    reads (line "DECODE_DISPLAY 06 5B 4F B0") = some (.decodeDisplay 0x06#8 0x5B#8 0x4F#8 0xB0#8) := by decide
theorem test_decode_encodeCommand : reads (line "ENCODE_COMMAND 3") = some (.encodeCommand 3) ∧
    reads (line "ENCODE_COMMAND 256") = some (.encodeCommand 256) := by decide
theorem test_decode_encodeKeepalive : reads (line "ENCODE_KEEPALIVE") = some .encodeKeepalive := by decide
theorem test_decode_signalActivity : reads (line "SIGNAL_ACTIVITY") = some .signalActivity := by decide
theorem test_decode_wdtFeed : reads (line "WDT_FEED") = some .wdtFeed := by decide

-- A pseudo-line of R71: `press 20` is the frame of section 1, S7.
theorem test_expand_press : (match expandLine (asc "press 20") with
    | .ok is => is
    | .error _ => []) = [encode (.rxH [0xA5#8, 0x00#8, 0x20#8, 0xDF#8, 0xFF#8])] := by decide
-- An output as R72 writes it: file 95, vector PH1.
theorem test_output_line : outputLine (.diag (.keysChanged 0x06#7 false)) =
    asc "-> diag KeysChanged " ++ [0x7B#8] ++ asc "1,2" ++ [0x7D#8] := by decide

/-! ### Pure functions: the tables 2.1 to 2.4 and S9 of file 95 -/

theorem test_checksum_carries : outs (.checksum 0xFF#8 0xFF#8 0xFF#8) base = some [.ret (.byte 0xFD#8)] := by decide
theorem test_checksum_256 : outs (.checksum 0x80#8 0x80#8 0x00#8) base = some [.ret (.byte 0x00#8)] := by decide
theorem test_digitByte_point : outs (.digitByte 0xDB#8) base = some [.ret (.digit (some (.digit 2)) true)] := by decide
theorem test_digitByte_unmapped_drops_point : outs (.digitByte 0xE6#8) base = some [.ret (.digit none false)] := by decide
theorem test_decodeButton_bit7 : outs (.decodeButton 0x00#8 0x80#8 0x7F#8 0xFF#8) base =
    some [.ret (.buttons ⟨0x00#7, true, false⟩)] := by decide
theorem test_decodeButton_bad_checksum : outs (.decodeButton 0x12#8 0x41#8 0x34#8 0x00#8) base =
    some [.ret (.buttons ⟨0x41#7, false, true⟩)] := by decide
theorem test_decodeDisplay_values :
    [[0x06#8, 0x5B#8, 0x4F#8, 0xB1#8], [0x86#8, 0x5B#8, 0x4F#8, 0x30#8], [0x86#8, 0xC0#8, 0xCF#8, 0x15#8],
      [0x86#8, 0xDB#8, 0x40#8, 0x11#8], [0x00#8, 0x00#8, 0x00#8, 0x01#8]].map (fun b =>
        (fourBytes .decodeDisplay b).bind fun i => outs i base) =
    [some [.ret (.display (.value 123 0 true))], some [.ret (.display (.value 123 (-2) false))],
      some [.ret (.display (.formatError .nonDigit))], some [.ret (.display (.formatError .dupDp))],
      some [.ret (.display (.formatError .nonDigit))]] := by decide
theorem test_decodeDisplay_fault : outs (.decodeDisplay 0xF9#8 0x86#8 0x86#8 0x05#8) base =
    some [.ret (.display (.fault 11 false))] := by decide
theorem test_encodeCommand_4 : outs (.encodeCommand 4) base =
    some [.ret (.frame ⟨0xA5#8, 0x00#8, 0x10#8, 0xEF#8, 0xFF#8⟩)] := by decide
theorem test_encodeCommand_5_256 : outs (.encodeCommand 5) base = some [.ret (.error .badSlot)] ∧
    outs (.encodeCommand 256) base = some [.ret (.error .badSlot)] := by decide
theorem test_encodeKeepalive : outs .encodeKeepalive base =
    some [.ret (.frame ⟨0xA5#8, 0x00#8, 0x60#8, 0x9F#8, 0xFF#8⟩)] := by decide

/-! ### Frames arriving and polls -/

-- S3.
theorem test_dispNoheight : outs .dispNoheight base = some [.txHand ⟨0x5A#8, 0#8, 0#8, 0#8, 0#8⟩] ∧
    post State.pos .dispNoheight { base with pos := ⟨123, 0⟩ } = some ⟨123, 0⟩ := by decide
theorem test_dispReset : outs .dispReset base =
    some [.diag .displayReset, .txHand ⟨0x5A#8, 0x77#8, 0x6D#8, 0x78#8, 0x5C#8⟩] := by decide
-- PC1, last frame.
theorem test_dispFault_bad_checksum : outs (.dispFault 0x79#8 0x06#8 0x06#8 0x00#8) base =
    some [.diag (.controllerFault 11 true), .txHand ⟨0x5A#8, 0x79#8, 0x06#8, 0x06#8, 0x00#8⟩] := by decide
-- PC1, first two frames.
theorem test_dispValue_writes_pos : post State.pos (.dispValue 0x06#8 0xDB#8 0x4F#8 0x30#8) base = some ⟨123, -1⟩ := by
  decide
theorem test_dispValue_bad_checksum : outs (.dispValue 0x06#8 0x5B#8 0x4F#8 0xB1#8) base =
    some [.diag (.checksumMismatch .C ⟨0x5A#8, 0x06#8, 0x5B#8, 0x4F#8, 0xB1#8⟩),
      .txHand ⟨0x5A#8, 0x06#8, 0x5B#8, 0x4F#8, 0xB1#8⟩] ∧
    post State.pos (.dispValue 0x06#8 0x5B#8 0x4F#8 0xB1#8) base = some ⟨0, 0⟩ := by decide
-- PH2, first frame.
theorem test_button_bad_checksum : outs (.button 0x00#8 0x20#8 0xDF#8 0xFE#8) base =
    some [.diag (.checksumMismatch .H ⟨0xA5#8, 0x00#8, 0x20#8, 0xDF#8, 0xFE#8⟩), .diag (.keysChanged 0x20#7 false),
      .txCtrl ⟨0xA5#8, 0x00#8, 0x20#8, 0xDF#8, 0xFE#8⟩] := by decide
-- PH5: dropped in silence, the transition still reported.
theorem test_button_dropped : outs (.button 0x00#8 0x20#8 0xDF#8 0xFF#8) (inCmdBurst .s3 4 2) =
    some [.diag (.keysChanged 0x20#7 false)] := by decide
-- RD4, RD8.
theorem test_rxH_long : outs (.rxH [0xA5#8, 0x00#8, 0x02#8, 0xFD#8, 0xFF#8, 0x11#8, 0x22#8]) base =
    some [.diag (.framingLong .H ⟨0xA5#8, 0x00#8, 0x02#8, 0xFD#8, 0xFF#8⟩ true)] := by decide
theorem test_rxH_two_frames :
    outs (.rxH [0xA5#8, 0x00#8, 0x02#8, 0xFD#8, 0xFF#8, 0xA5#8, 0x00#8, 0x04#8, 0xFB#8, 0xFF#8]) base =
    some [.diag (.keysChanged 0x02#7 false), .txCtrl ⟨0xA5#8, 0x00#8, 0x02#8, 0xFD#8, 0xFF#8⟩] := by decide
-- RD6, and the first poll of RD13.
theorem test_rxC_short : outs (.rxC [0x5A#8, 0x06#8, 0x5A#8, 0x4F#8, 0x10#8]) base =
    some [.diag (.framingShort .C [0x5A#8, 0x06#8])] := by decide
theorem test_rxC_incomplete : post State.bufC (.rxC [0x13#8, 0x5A#8, 0x06#8]) base = some [0x5A#8, 0x06#8] := by decide
-- RD12, RD17.
theorem test_rxerrH : outs .rxerrH { base with bufH := [0xA5#8, 0x00#8] } =
    some [.diag (.readError .H [0xA5#8, 0x00#8])] := by decide
theorem test_rxerrC_cancelled : outs .rxerrC cancelled = some [.diag (.canceled .C)] ∧
    post State.runC .rxerrC cancelled = some .stopped := by decide

/-! ### Ticks, bursts, host operations -/

-- S7: the tenth idle tick fires the task.
theorem test_tick_fires : post State.kaState .tick { base with kaTimer := 1 } = some .firingWait ∧
    post State.kaState .tick { base with kaTimer := 2 } = some .waiting := by decide
-- AR5: expiry before the burst's end, whose activity signal is left pending.
theorem test_tick_order : post (fun s => (s.kaState, s.kaTimer, s.kaPending)) .tick { inCmdBurst .s1 1 1 with kaTimer := 1 } =
    some (.firingWait, 0, true) := by decide
-- S8: the last write, tick 8 of 8, and the write before it.
theorem test_cmdSlot1_last : outs .cmdSlot1 (inCmdBurst .s1 1 1) =
    some [.txCtrl ⟨0xA5#8, 0x00#8, 0x02#8, 0xFD#8, 0xFF#8⟩, .act false, .ret .ok] := by decide
theorem test_cmdSlot2_more : post (fun s => (s.cmdN, s.cmdSp)) .cmdSlot2 (inCmdBurst .s2 2 1) = some (1, 2) := by decide
theorem test_cmdSlot3_write : outs .cmdSlot3 (inCmdBurst .s3 3 1) =
    some [.txCtrl ⟨0xA5#8, 0x00#8, 0x08#8, 0xF7#8, 0xFF#8⟩] := by decide
theorem test_cmdSlot4_not_its_burst : post State.cmdN .cmdSlot4 (inCmdBurst .s3 3 1) = some 3 := by decide
theorem test_keepalive_last : outs .keepalive (inKaBurst 1 1) =
    some [.txCtrl ⟨0xA5#8, 0x00#8, 0x60#8, 0x9F#8, 0xFF#8⟩, .act false] ∧
    post (fun s => (s.kaState, s.kaTimer)) .keepalive (inKaBurst 1 1) = some (.waiting, 10) := by decide
-- AR1.
theorem test_moveTo_bad_slot : outs (.moveTo 255#8) base = some [.ret (.error .badSlot)] := by decide
theorem test_moveTo_disabled_first : outs (.moveTo 9#8) { base with remoteEn := false } =
    some [.ret (.error .remoteDisabled)] := by decide
theorem test_setRemoteEnabled : post State.remoteEn (.setRemoteEnabled false) base = some false := by decide
-- PC3.
theorem test_currentPosition : outs .currentPosition { base with pos := ⟨123, -2⟩ } =
    some [.ret (.position ⟨123, -2⟩)] := by decide
-- R167: a keep-alive burst is cut off.
theorem test_cancel_cuts : outs .cancel (inKaBurst 3 2) = some [.act false] ∧
    post (fun s => (s.kaState, s.busOwner, s.cancel)) .cancel (inKaBurst 3 2) = some (.stopped, .free, true) := by decide
-- PH6, S7.
theorem test_grantCmd : outs .grantCmd (waiting .s3) =
    some [.act true, .txCtrl ⟨0xA5#8, 0x00#8, 0x08#8, 0xF7#8, 0xFF#8⟩] := by decide
theorem test_grantKa : outs .grantKa kaWaits = some [.act true, .txCtrl ⟨0xA5#8, 0x00#8, 0x60#8, 0x9F#8, 0xFF#8⟩] := by
  decide
-- R211.
theorem test_reset : post (fun s => { s with stim := [], trace := [] }) .reset (inKaBurst 3 2) = some base := by decide
-- R165, R169.
theorem test_signalActivity : post State.kaTimer .signalActivity { base with kaTimer := 3 } = some 10 ∧
    post State.kaPending .signalActivity kaWaits = some true := by decide
theorem test_wdtFeed : post State.wdtCnt .wdtFeed { base with wdtCnt := 1 } = some 20 := by decide
-- R170.
theorem test_tick_expires : outs .tick { inCmdBurst .s1 4 1 with wdtCnt := 1 } = some [.hardReset] := by decide

-- The fetch: the placed word runs on the very next step.
theorem test_fetch : (after (step (State.reset.withFetchWord 40 0x5A065B4FB0))).map State.pos = some ⟨123, 0⟩ := by decide

/-! ### Witnesses: concrete states and operands that meet the statements' hypotheses -/

theorem witness_inv_base : Inv base := by
  constructor <;> first
    | decide
    | (unfold bufOk; decide)
    | (unfold Position.inRange; decide)
theorem witness_inv_waiting : Inv (waiting .s2) := by
  constructor <;> first
    | decide
    | (unfold bufOk; decide)
    | (unfold Position.inRange; decide)
theorem witness_inv_waitingLate : Inv { waiting .s2 with kaTimer := 8 } := by
  constructor <;> first
    | decide
    | (unfold bufOk; decide)
    | (unfold Position.inRange; decide)
theorem witness_inv_kaWaits : Inv kaWaits := by
  constructor <;> first
    | decide
    | (unfold bufOk; decide)
    | (unfold Position.inRange; decide)
theorem witness_inv_cmdBurst : Inv (inCmdBurst .s1 4 2) := by
  constructor <;> first
    | decide
    | (unfold bufOk; decide)
    | (unfold Position.inRange; decide)
theorem witness_inv_kaBurst : Inv (inKaBurst 4 2) := by
  constructor <;> first
    | decide
    | (unfold bufOk; decide)
    | (unfold Position.inRange; decide)
theorem witness_inv_diag : Inv inDiag := by
  constructor <;> first
    | decide
    | (unfold bufOk; decide)
    | (unfold Position.inRange; decide)
theorem witness_inv_oneTickLeft : Inv { base with wdtCnt := 1 } := by
  constructor <;> first
    | decide
    | (unfold bufOk; decide)
    | (unfold Position.inRange; decide)
theorem witness_hunting (x : Line) : Hunting x base := by cases x <;> (unfold Hunting Polls; decide)
theorem witness_DecodeOfEncodeIsIdentity :
    (Instr.dispFault 0x79#8 0x06#8 0x06#8 0x85#8).wellFormed paramsT = true ∧
    (Instr.dispValue 0x06#8 0x5B#8 0x4F#8 0xB0#8).wellFormed paramsT = true ∧
    (Instr.rxC (List.replicate 10 0x5A#8)).wellFormed paramsT = true := by decide

theorem witness_FrameItemsRoundTrip :
    Port.controller ≠ .script ∧
    decode paramsT.digit ⟨.controller, [0x5A#8, 0x79#8, 0x06#8, 0x06#8, 0x85#8]⟩ =
      .ok (.dispFault 0x79#8 0x06#8 0x06#8 0x85#8) := ⟨by decide, rfl⟩

theorem witness_StepRunsTheDecodedOperation :
    (base.withFetchWord 40 0x5A00000000).stim = wordItem 40 0x5A00000000 :: [] ∧
    decode base.cfg.digit (wordItem 40 0x5A00000000) = .ok .dispNoheight ∧ base.stim = [] ∧
    decode base.cfg.digit (line "move") = .error .badOperands := ⟨rfl, rfl, rfl, rfl⟩

theorem witness_FetchedWordRunsNext :
    State.reset.cfg.digit = defaultDigits none ∧ decodeTableWord 40 0xA500609FFF = some .keepalive := by decide

theorem witness_DigitByteResult :
    lookupDigit base.cfg.digit ((0x86#8 : Byte).extractLsb' 0 7) = some (.digit 1) ∧
    lookupDigit base.cfg.digit ((0x80#8 : Byte).extractLsb' 0 7) = none := by decide

theorem witness_FaultDecode :
    lookupDigit (defaultDigits none) ((0xF9#8 : Byte).extractLsb' 0 7) = some .e ∧
    lookupDigit (defaultDigits none) ((0x6F#8 : Byte).extractLsb' 0 7) = some (.digit 9) ∧
    lookupDigit (defaultDigits none) ((0x3F#8 : Byte).extractLsb' 0 7) = some (.digit 0) ∧
    (∀ a : Fin 10, lookupDigit (defaultDigits none) ((0x79#8 : Byte).extractLsb' 0 7) ≠ some (.digit a)) ∧
    Payload.mk 0xF9#8 0x6F#8 0x3F#8 0x00#8 ≠ ⟨0x00#8, 0x00#8, 0x00#8, 0x00#8⟩ ∧
    Payload.mk 0xF9#8 0x6F#8 0x3F#8 0x00#8 ≠ ⟨0x77#8, 0x6D#8, 0x78#8, 0x5C#8⟩ := by decide

theorem witness_ValueDecode :
    lookupDigit (defaultDigits none) ((0x06#8 : Byte).extractLsb' 0 7) = some (.digit 1) ∧
    lookupDigit (defaultDigits none) ((0xDB#8 : Byte).extractLsb' 0 7) = some (.digit 2) ∧
    lookupDigit (defaultDigits none) ((0x4F#8 : Byte).extractLsb' 0 7) = some (.digit 3) ∧
    ((0x06#8 : Byte).getLsbD 7 && (0xDB#8 : Byte).getLsbD 7) = false ∧
    ((0x06#8 : Byte).getLsbD 7 && (0x4F#8 : Byte).getLsbD 7) = false ∧
    ((0xDB#8 : Byte).getLsbD 7 && (0x4F#8 : Byte).getLsbD 7) = false ∧
    Payload.mk 0x06#8 0xDB#8 0x4F#8 0x30#8 ≠ ⟨0x00#8, 0x00#8, 0x00#8, 0x00#8⟩ ∧
    Payload.mk 0x06#8 0xDB#8 0x4F#8 0x30#8 ≠ ⟨0x77#8, 0x6D#8, 0x78#8, 0x5C#8⟩ := by decide

-- One argument for each of the five clauses: a digit is 06, 86 or DB, no digit is 00 or 77 (with its point F7).
theorem witness_FormatErrorDecode :
    let isDigit : Byte → Prop := fun b => ∃ n : Fin 10, lookupDigit (defaultDigits none) (b.extractLsb' 0 7) = some (.digit n)
    let point : Byte → Prop := fun b => lookupDigit (defaultDigits none) (b.extractLsb' 0 7) ≠ none ∧ b.getLsbD 7 = true
    lookupDigit (defaultDigits none) ((0x00#8 : Byte).extractLsb' 0 7) ≠ some .e ∧
    lookupDigit (defaultDigits none) ((0x06#8 : Byte).extractLsb' 0 7) ≠ some .e ∧
    lookupDigit (defaultDigits none) ((0x86#8 : Byte).extractLsb' 0 7) ≠ some .e ∧
    ¬ isDigit 0x00#8 ∧
    (isDigit 0x86#8 ∧ point 0x86#8 ∧ point 0xF7#8) ∧
    (isDigit 0x06#8 ∧ ¬ (point 0x06#8 ∧ point 0xF7#8) ∧ ¬ isDigit 0xF7#8) ∧
    (isDigit 0x06#8 ∧ isDigit 0xDB#8 ∧ ¬ (point 0x06#8 ∧ point 0xDB#8) ∧ (point 0x06#8 ∨ point 0xDB#8) ∧ point 0xF7#8) ∧
    (isDigit 0x06#8 ∧ isDigit 0xDB#8 ∧ ¬ (point 0x06#8 ∧ point 0xDB#8) ∧ ¬ ((point 0x06#8 ∨ point 0xDB#8) ∧ point 0x77#8) ∧
      ¬ isDigit 0x77#8) := by decide

theorem witness_EncoderResults :
    ∃ low high below above : Nat, (1 ≤ low ∧ low ≤ 4 ∧ low = 1) ∧ (1 ≤ high ∧ high ≤ 4 ∧ high = 4) ∧ below < 1 ∧ 4 < above :=
  ⟨1, 4, 0, 5, by decide⟩

theorem witness_GeneratedFramesDecode :
    (0x60#7 : KeySet) ≠ 0#7 := by decide

theorem witness_IncompletePollKeepsBytes :
    Polls .H base ∧ ([0x13#8, 0xA5#8, 0x00#8, 0x02#8, 0xFD#8] : List Byte).length ≤ base.cfg.chunkMax ∧
    (accumulated .H [0x13#8, 0xA5#8, 0x00#8, 0x02#8, 0xFD#8] base).length = 4 := by unfold Polls; decide

theorem witness_StraysAreDiscarded :
    bufOf .C base = [] ∧ (∀ b ∈ ([0xA5#8, 0x13#8] : List Byte), b ≠ Line.start .C) ∧
    ([0xA5#8, 0x13#8] ++ List.replicate 8 0x5A#8 : List Byte).length ≤ base.cfg.chunkMax := by decide

theorem witness_ChunkingOfAnIncompleteFrame :
    ([0x5A#8, 0x06#8, 0x5B#8] ++ [0x4F#8, 0xB0#8] : List Byte).length ≤ base.cfg.chunkMax ∧
    (accumulated .C [0x5A#8, 0x06#8, 0x5B#8] base).length < 5 := by decide

-- Both lines; nothing behind the candidate, and a next start byte behind it.
theorem witness_ExactCandidateIsItsFrame :
    Polls .H base ∧ CleanFrame .H ⟨0xA5#8, 0x00#8, 0x02#8, 0xFD#8, 0xFF#8⟩ ∧
    accumulated .H [0xA5#8, 0x00#8, 0x02#8, 0xFD#8, 0xFF#8, 0xA5#8, 0x00#8] base =
      Frame.bytes ⟨0xA5#8, 0x00#8, 0x02#8, 0xFD#8, 0xFF#8⟩ ++ [0xA5#8, 0x00#8] ∧ EndsCandidate .H [0xA5#8, 0x00#8] ∧
    Polls .C { base with bufC := [0x5A#8, 0x06#8, 0x5B#8] } ∧ CleanFrame .C ⟨0x5A#8, 0x06#8, 0x5B#8, 0x4F#8, 0xB0#8⟩ ∧
    accumulated .C [0x4F#8, 0xB0#8] { base with bufC := [0x5A#8, 0x06#8, 0x5B#8] } =
      Frame.bytes ⟨0x5A#8, 0x06#8, 0x5B#8, 0x4F#8, 0xB0#8⟩ ++ [] ∧ EndsCandidate .C [] ∧
    1 ≤ base.cfg.chunkMax := by
  unfold Polls CleanFrame EndsCandidate; decide

theorem witness_LongCandidateReported :
    Polls .H base ∧ CleanFrame .H ⟨0xA5#8, 0x00#8, 0x02#8, 0xFD#8, 0xFF#8⟩ ∧ ([0x11#8] : List Byte) ≠ [] ∧
    (∀ b ∈ ([0x11#8] : List Byte), b ≠ Line.start .H) ∧
    accumulated .H [0xA5#8, 0x00#8, 0x02#8, 0xFD#8, 0xFF#8, 0x11#8, 0xA5#8] base =
      Frame.bytes ⟨0xA5#8, 0x00#8, 0x02#8, 0xFD#8, 0xFF#8⟩ ++ [0x11#8] ++ [0xA5#8] ∧ EndsCandidate .H [0xA5#8] ∧
    ([0xA5#8, 0x00#8, 0x02#8, 0xFD#8, 0xFF#8, 0x11#8, 0xA5#8] : List Byte).length ≤ base.cfg.chunkMax := by
  unfold Polls CleanFrame EndsCandidate; decide

-- The next start byte at index 1 and at index 4.
theorem witness_ShortCandidateReported :
    Polls .H base ∧ ([] : List Byte).length ≤ 3 ∧
    accumulated .H [0xA5#8, 0xA5#8, 0x00#8, 0x02#8, 0xFD#8] base =
      Line.start .H :: [] ++ Line.start .H :: [0x00#8, 0x02#8, 0xFD#8] ∧
    ([0x00#8, 0x02#8, 0xFD#8] : List Byte).length ≤ 3 ∧ (∀ b ∈ ([0x00#8, 0x02#8, 0xFD#8] : List Byte), b ≠ Line.start .H) ∧
    accumulated .H [0xA5#8, 0x00#8, 0x02#8, 0xFD#8, 0xA5#8] base =
      Line.start .H :: [0x00#8, 0x02#8, 0xFD#8] ++ Line.start .H :: [] ∧
    5 ≤ (accumulated .H [0xA5#8, 0x00#8, 0x02#8, 0xFD#8, 0xA5#8] base).length := by
  unfold Polls; decide

theorem witness_ByteSerialIsNeverLong :
    bufOk (Line.start .H) (bufOf .H { base with bufH := [0xA5#8, 0x00#8, 0x02#8, 0xFD#8] }) ∧
    (after (exec (rxInstr .H [0xFF#8]) { base with bufH := [0xA5#8, 0x00#8, 0x02#8, 0xFD#8] })).isSome = true := by
  unfold bufOk; decide

theorem witness_ReadErrorEmptiesBuffer :
    Polls .H { base with bufH := [0xA5#8] } ∧ cancelled.mode = .run ∧ runOf .C cancelled = .running ∧
    cancelled.cancel = true ∧ runOf .C stopped = .stopped ∧ inDiag.mode = .diag := by unfold Polls; decide

theorem witness_CancelledPollStopsLoop :
    ([0x02#8] : List Byte).length ≤ cancelled.cfg.chunkMax ∧ cancelled.mode = .run ∧ runOf .H cancelled = .running ∧
    cancelled.cancel = true ∧ runOf .H stopped = .stopped := by decide

-- RD10 is the inner start byte.
theorem witness_FrameOperationForms :
    5 ≤ base.cfg.chunkMax ∧ Hunting .H base ∧
    ([0x00#8, 0x5A#8, 0xA5#8, 0xFF#8] : List Byte).takeWhile (fun b => b != Line.start .H) = [0x00#8, 0x5A#8] ∧
    1 ≤ inDiag.cfg.chunkMax ∧ inDiag.mode = .diag ∧ runOf .C stopped = .stopped ∧
    decodeController base.cfg.digit ⟨0x79#8, 0x06#8, 0x06#8, 0x85#8⟩ = .dispFault 0x79#8 0x06#8 0x06#8 0x85#8 := by unfold Hunting Polls; decide

-- Each counter as the first below 0, from the state of every mode the task can be in, and a tick with none.
theorem witness_NamedStops :
    base.cfg.chunkMax < (List.replicate 11 0x00#8 : List Byte).length ∧ base.mode = .run ∧
    tickUnderflow { base with wdtCnt := 0 } = some .wdtCnt ∧ tickUnderflow { base with kaTimer := 0 } = some .kaTimer ∧
    tickUnderflow (inCmdBurst .s1 4 0) = some .cmdSp ∧ tickUnderflow (inCmdBurst .s1 0 1) = some .cmdN ∧
    tickUnderflow { inCmdBurst .s1 4 0 with kaState := .firingWait } = some .cmdSp ∧
    tickUnderflow (inKaBurst 4 0) = some .kaSp ∧ tickUnderflow (inKaBurst 0 1) = some .kaN ∧
    tickUnderflow { base with wdtCnt := 1, kaTimer := 0 } = none ∧ tickUnderflow base = none ∧
    (inCmdBurst .s4 0 2).cmdState = .burst ∧ (inCmdBurst .s4 0 2).cmdSlot = .s4 ∧ (inCmdBurst .s4 0 2).cmdN = 0 ∧
    (inKaBurst 0 1).kaN = 0 ∧ (inKaBurst 0 1).kaState = .firingBurst := by decide

theorem witness_ButtonFrameHandled : Hunting .H base ∧ CleanFrame .H ⟨0xA5#8, 0x00#8, 0x20#8, 0xDF#8, 0xFE#8⟩ := by
  unfold Hunting Polls CleanFrame; decide

-- For the no-height and the reset frame the hypothesis is this one alone.
theorem witness_DistinguishedFramesHandled : Hunting .C base := witness_hunting .C

-- A code of two digits, and a code digit that is none.
theorem witness_FaultFrameHandled :
    Hunting .C base ∧ (Instr.dispFault 0x79#8 0x06#8 0x5B#8 0xDA#8).wellFormed base.cfg = true ∧
    CleanFrame .C ⟨0x5A#8, 0x79#8, 0x06#8, 0x5B#8, 0xDA#8⟩ ∧
    lookupDigit base.cfg.digit ((0x06#8 : Byte).extractLsb' 0 7) = some (.digit 1) ∧
    lookupDigit base.cfg.digit ((0x5B#8 : Byte).extractLsb' 0 7) = some (.digit 2) ∧
    (Instr.dispFault 0x79#8 0x00#8 0x06#8 0x7F#8).wellFormed base.cfg = true ∧
    CleanFrame .C ⟨0x5A#8, 0x79#8, 0x00#8, 0x06#8, 0x7F#8⟩ ∧
    (∀ a : Fin 10, lookupDigit base.cfg.digit ((0x00#8 : Byte).extractLsb' 0 7) ≠ some (.digit a)) := by
  unfold Hunting Polls CleanFrame; decide

-- A good value, a bad checksum, a format error.
theorem witness_ValueFrameHandled :
    Hunting .C base ∧ CleanFrame .C ⟨0x5A#8, 0x06#8, 0x5B#8, 0x4F#8, 0xB0#8⟩ ∧
    decodeDisplay base.cfg.digit ⟨0x06#8, 0x5B#8, 0x4F#8, 0xB0#8⟩ = .value 123 0 false ∧
    CleanFrame .C ⟨0x5A#8, 0x06#8, 0x5B#8, 0x4F#8, 0xB1#8⟩ ∧
    decodeDisplay base.cfg.digit ⟨0x06#8, 0x5B#8, 0x4F#8, 0xB1#8⟩ = .value 123 0 true ∧
    CleanFrame .C ⟨0x5A#8, 0x86#8, 0xDB#8, 0x4F#8, 0xB0#8⟩ ∧
    decodeDisplay base.cfg.digit ⟨0x86#8, 0xDB#8, 0x4F#8, 0xB0#8⟩ = .formatError .dupDp := by
  unfold Hunting Polls CleanFrame; decide

-- The two writers of `pos`.
-- By the row of a frame class, by a poll that completes a frame, and by a reset.
theorem witness_PositionHasOneWriter :
    bufOk Config.startC base.bufC ∧
    post State.pos (.dispValue 0x06#8 0x5B#8 0x4F#8 0xB0#8) base = some ⟨123, 0⟩ ∧
    readsOk .C ⟨0x5A#8, 0x06#8, 0x5B#8, 0x4F#8, 0xB0#8⟩ (.dispValue 0x06#8 0x5B#8 0x4F#8 0xB0#8) base ∧
    post State.pos (.rxC [0x4F#8, 0xB0#8]) { base with bufC := [0x5A#8, 0x06#8, 0x5B#8] } = some ⟨123, 0⟩ ∧
    readsOk .C ⟨0x5A#8, 0x06#8, 0x5B#8, 0x4F#8, 0xB0#8⟩ (.rxC [0x4F#8, 0xB0#8])
      { base with bufC := [0x5A#8, 0x06#8, 0x5B#8] } ∧
    post State.pos .reset { base with pos := ⟨123, 0⟩ } = some ⟨0, 0⟩ :=
  ⟨by unfold bufOk; decide, by decide,
    ⟨by unfold Polls; decide, .inr ⟨⟨by decide, .inr (.inr (.inr rfl))⟩, by unfold CleanFrame; decide, by decide⟩⟩, by decide,
    ⟨by unfold Polls; decide, .inl ⟨_, rfl, by decide⟩⟩, by decide⟩

theorem witness_LinesAreIndependent :
    isHandsetOp (.button 0x00#8 0x20#8 0xDF#8 0xFF#8) ∧ (after (exec (.button 0x00#8 0x20#8 0xDF#8 0xFF#8) base)).isSome = true ∧
    isControllerOp .dispNoheight ∧ (outs .dispNoheight base) = some [.txHand ⟨0x5A#8, 0#8, 0#8, 0#8, 0#8⟩] :=
  ⟨.inr (.inr ⟨_, _, _, _, rfl⟩), by decide, .inr (.inr (.inl rfl)), by decide⟩

-- A frame written in each of the five ways.
theorem witness_BusWritesAreMutuallyExclusive :
    Inv base ∧ outs (.button 0x00#8 0x00#8 0xFF#8 0xFF#8) base = some [.txCtrl ⟨0xA5#8, 0x00#8, 0x00#8, 0xFF#8, 0xFF#8⟩] ∧
    Inv (waiting .s2) ∧ (outs .grantCmd (waiting .s2)).map List.length = some 2 ∧
    Inv kaWaits ∧ (outs .grantKa kaWaits).map List.length = some 2 ∧
    Inv (inCmdBurst .s1 4 2) ∧ outs .cmdSlot1 (inCmdBurst .s1 4 2) = some [.txCtrl ⟨0xA5#8, 0x00#8, 0x02#8, 0xFD#8, 0xFF#8⟩] ∧
    Inv (inKaBurst 4 2) ∧ outs .keepalive (inKaBurst 4 2) = some [.txCtrl ⟨0xA5#8, 0x00#8, 0x60#8, 0x9F#8, 0xFF#8⟩] :=
  ⟨witness_inv_base, by decide, witness_inv_waiting, by decide, witness_inv_kaWaits, by decide, witness_inv_cmdBurst, by decide,
    witness_inv_kaBurst, by decide⟩

theorem witness_GrantStartsBurst :
    (waiting .s4).mode = .run ∧ (waiting .s4).busOwner = .free ∧ (waiting .s4).cmdState = .waitLock ∧
    kaWaits.mode = .run ∧ kaWaits.busOwner = .free ∧ kaWaits.kaState = .firingWait := by decide

theorem witness_NotEnabledChangesNothing :
    inDiag.mode = .diag ∧ (inKaBurst 4 2).busOwner ≠ .free ∧ base.cmdState ≠ .waitLock ∧ base.kaState ≠ .firingWait ∧
    (waiting .s1).mode = .run ∧ (waiting .s1).cmdState ≠ .idle ∧ (inCmdBurst .s1 4 2).cmdState ≠ .idle := by decide

theorem witness_MoveToChecks :
    1 ≤ (1#8 : Byte).toNat ∧ (4#8 : Byte).toNat ≤ 4 ∧ inDiag.mode = .diag ∧ base.mode = .run ∧ base.cmdState = .idle ∧ base.remoteEn = true ∧
    ({ base with remoteEn := false } : State).remoteEn = false ∧ (0#8 : Byte).toNat < 1 ∧ 4 < (5#8 : Byte).toNat := by decide

theorem witness_RemoteBitAndPositionQuery :
    base.mode = .run ∧ inDiag.mode = .diag := by decide

theorem witness_CancelStopsKeepAlive :
    (inKaBurst 3 2).mode = .run ∧ (inKaBurst 3 2).kaState = .firingBurst ∧ kaWaits.kaState ≠ .firingBurst ∧
    inDiag.mode = .diag := by decide

theorem witness_ResetValues :
    base.cfg.initOk = true ∧ inDiag.cfg.initOk = false := by decide

theorem witness_ActivitySignalAndFeed :
    base.kaState = .waiting ∧ kaWaits.kaState ≠ .waiting := by decide

theorem witness_GeneratedFrameWrites :
    (inCmdBurst .s1 2 2).cmdState = .burst ∧ (inCmdBurst .s1 2 2).cmdSlot = .s1 ∧ 2 ≤ (inCmdBurst .s1 2 2).cmdN ∧
    (inCmdBurst .s1 1 2).cmdN = 1 ∧ base.cmdState ≠ .burst ∧ (inCmdBurst .s1 2 2).cmdSlot ≠ .s2 ∧
    (inKaBurst 2 2).kaState = .firingBurst ∧ 2 ≤ (inKaBurst 2 2).kaN ∧ (inKaBurst 1 2).kaN = 1 ∧ inDiag.mode = .diag := by decide

theorem witness_QuietTick :
    base.mode = .run ∧ 2 ≤ ({ base with wdtCnt := 2 } : State).wdtCnt ∧ base.cmdState ≠ .burst ∧ base.kaState ≠ .firingBurst ∧
    (({ base with kaTimer := 1 } : State).kaState = .waiting → 1 ≤ ({ base with kaTimer := 1 } : State).kaTimer) := by decide

theorem witness_CommandBurstTick :
    (inCmdBurst .s1 4 2).mode = .run ∧ 2 ≤ (inCmdBurst .s1 4 2).wdtCnt ∧ (inCmdBurst .s1 4 2).cmdState = .burst ∧
    (inCmdBurst .s1 4 2).kaState ≠ .firingBurst ∧ 1 ≤ (inCmdBurst .s1 4 2).kaTimer ∧ 2 ≤ (inCmdBurst .s1 4 2).cmdSp ∧
    (inCmdBurst .s1 2 1).cmdSp = 1 ∧ 2 ≤ (inCmdBurst .s1 2 1).cmdN ∧ (inCmdBurst .s1 1 1).cmdN = 1 := by decide

theorem witness_KeepAliveBurstTick :
    (inKaBurst 4 2).mode = .run ∧ 2 ≤ (inKaBurst 4 2).wdtCnt ∧ (inKaBurst 4 2).cmdState ≠ .burst ∧
    (inKaBurst 4 2).kaState = .firingBurst ∧ 2 ≤ (inKaBurst 4 2).kaSp ∧ (inKaBurst 2 1).kaSp = 1 ∧ 2 ≤ (inKaBurst 2 1).kaN ∧
    (inKaBurst 1 1).kaN = 1 := by decide

theorem witness_DiagTick :
    inDiag.mode = .diag := by decide

theorem witness_InvariantAtReset :
    paramsT.ok = true ∧ badParams.ok = true := by decide

theorem witness_EveryStepKeepsInvariant :
    Inv { base with stim := [encode .tick] } ∧ (after (step { base with stim := [encode .tick] })).isSome = true := by
  refine ⟨?_, by decide⟩
  constructor <;> first
    | decide
    | (unfold bufOk; decide)
    | (unfold Position.inRange; decide)

theorem witness_EveryOperationCompletes : Inv base ∧ (Instr.rxC (List.replicate 10 0x5A#8)).wellFormed base.cfg = true :=
  ⟨witness_inv_base, by decide⟩

theorem witness_ParametersConstantTraceGrows : (after (exec .tick base)).isSome = true := by decide

-- Each premise of the conclusion: the two loops stopping, and the three moves of the sequencer.
theorem witness_ControlTransfers :
    ¬ Resets .tick base ∧ post State.runH (.rxH []) cancelled = some .stopped ∧ post State.runC .rxerrC cancelled = some .stopped ∧
    post State.cmdState (.moveTo 1#8) base = some .waitLock ∧ post State.cmdState .grantCmd (waiting .s1) = some .burst ∧
    post State.cmdState .tick (inCmdBurst .s1 1 1) = some .idle ∧ post State.cancel .tick cancelled = some true ∧
    post State.runH .tick stopped = some .stopped ∧
    post State.kaState .tick { base with kaTimer := 1 } = some .firingWait ∧ post State.kaState .grantKa kaWaits = some .firingBurst ∧
    post State.kaState .tick (inKaBurst 1 1) = some .waiting ∧ post State.kaState .cancel base = some .stopped := by
  unfold Resets; decide

theorem witness_DiagHaltsNormalOperation :
    Inv inDiag ∧ inDiag.mode = .diag ∧ (outs .tick inDiag) = some [.diag .initFail] :=
  ⟨witness_inv_diag, by decide, by decide⟩

theorem witness_RemoteBitGatesOnlyMoveTo :
    ∀ slot, Instr.grantCmd ≠ .moveTo slot := fun _ h => nomatch h

theorem witness_KeepAliveExpiresExactly :
    base.mode = .run ∧ base.kaState = .waiting ∧ base.cmdState ≠ .burst ∧ 1 ≤ base.kaTimer ∧ base.kaTimer < base.wdtCnt := by decide

theorem witness_CommandBurstTiming :
    Inv (waiting .s2) ∧ (waiting .s2).mode = .run ∧ (waiting .s2).busOwner = .free ∧ (waiting .s2).cmdState = .waitLock ∧
    4 * (waiting .s2).cfg.spacing < (waiting .s2).wdtCnt :=
  ⟨witness_inv_waiting, by decide, by decide, by decide, by decide⟩

theorem witness_KeepAliveBurstTiming :
    Inv kaWaits ∧ kaWaits.mode = .run ∧ kaWaits.busOwner = .free ∧ kaWaits.kaState = .firingWait ∧
    4 * kaWaits.cfg.spacing < kaWaits.wdtCnt :=
  ⟨witness_inv_kaWaits, by decide, by decide, by decide, by decide⟩

theorem witness_WatchdogResetsExactly :
    Inv { base with wdtCnt := 1 } ∧ ({ base with wdtCnt := 1 } : State).mode = .run ∧ Inv (inKaBurst 4 2) ∧
    (inKaBurst 4 2).mode = .run :=
  ⟨witness_inv_oneTickLeft, by decide, witness_inv_kaBurst, by decide⟩

-- A tick, a handset frame, a tick: gaps of one tick. The last state's interval runs out in the tick that ends the burst.
theorem witness_ParameterConstraintsServe :
    Inv base ∧ Serves base.cfg 19 19 ∧
    GapsAtMost 1 (base.cfg.wdtTimeout - base.wdtCnt) [.tick, .button 0x00#8 0x20#8 0xDF#8 0xFF#8, .tick] base ∧
    (after (runOps [.tick, .button 0x00#8 0x20#8 0xDF#8 0xFF#8, .tick] base)).isSome = true ∧
    base.mode = .run ∧ base.busOwner = .free ∧ base.kaState = .waiting ∧ base.kaTimer < base.wdtCnt ∧
    Inv { waiting .s2 with kaTimer := 8 } ∧ (waiting .s2).mode = .run ∧ (waiting .s2).busOwner = .free ∧
    (waiting .s2).cmdState = .waitLock ∧ (waiting .s2).kaState = .waiting ∧
    8 ≤ 4 * (waiting .s2).cfg.spacing ∧ 4 * (waiting .s2).cfg.spacing < (waiting .s2).wdtCnt := by
  have noTick : ∀ s, ¬ ∃ x f, readsOk x f .tick s := by
    rintro s ⟨x, f, h⟩
    have h' := readsOk_lineOp h
    cases x <;> simp [isLineOp, isHandsetOp, isControllerOp] at h'
  refine ⟨witness_inv_base, ⟨by decide, by unfold outlastsGap; decide, by unfold beatsCutoff; decide⟩, ?_, by decide, by decide,
    by decide, by decide, by decide, witness_inv_waitingLate, by decide, by decide, by decide, by decide, by decide, by decide⟩
  intro t ht
  have reads : ∃ x f, readsOk x f (.button 0x00#8 0x20#8 0xDF#8 0xFF#8) t :=
    ⟨.H, ⟨0xA5#8, 0x00#8, 0x20#8, 0xDF#8, 0xFF#8⟩, by cases ht; unfold Polls; decide,
      .inr ⟨⟨by decide, rfl⟩, by unfold CleanFrame; decide, by cases ht; decide⟩⟩
  refine ⟨fun h => absurd h (noTick _), fun _ _ => ⟨by decide, fun u _ => ⟨fun _ v _ => ?_, fun h => absurd reads h,
    fun h => absurd reads h⟩⟩, fun _ h => absurd rfl h⟩
  exact ⟨fun h => absurd h (noTick _), fun _ _ => ⟨by decide, trivial⟩, fun _ h => absurd rfl h⟩

end Sys2Proof.Tests
end

