-- ==== Sys2Proof/Proofs/Fetch.lean ====
section
/-! Fetching: the three results of `step` (20_memory.md R48; log 1, log 4), and a table word placed as the next item (log 5). -/

namespace Sys2Proof.Machine

/-! ### The three results of `step` -/

/-- R199: without an event nothing happens. -/
theorem step_of_stim_nil {s : State} (hstim : s.stim = []) : step s = .next s := by
  simp only [step, hstim]

/-- R48: the oldest item is taken, and the operation it encodes is performed on what is left. -/
theorem step_of_decode_ok {s : State} {it : Item} {rest : List Item} {i : Instr} (hstim : s.stim = it :: rest)
    (hdec : decode s.cfg.digit it = .ok i) : step s = exec i { s with stim := rest } := by
  simp only [step, hstim, hdec]

/-- Log 4: the refusal carries the decoder's own reason. -/
theorem step_of_decode_error {s : State} {it : Item} {rest : List Item} {e : DecodeError} (hstim : s.stim = it :: rest)
    (hdec : decode s.cfg.digit it = .error e) : step s = .refused (.undecodable e) := by
  simp only [step, hstim, hdec]

/-! ### A table word placed for fetching -/

@[simp] theorem withFetchWord_stim (s : State) (nbits w : Nat) :
    (s.withFetchWord nbits w).stim = wordItem nbits w :: s.stim := rfl

@[simp] theorem withFetchWord_cfg (s : State) (nbits w : Nat) : (s.withFetchWord nbits w).cfg = s.cfg := rfl

/-- Taking the placed word gives back the state it was placed in. -/
theorem withFetchWord_taken (s : State) (nbits w : Nat) :
    { s.withFetchWord nbits w with stim := s.stim } = s := rfl

/-- `decodeTableWord` is the decoder on the word's item, with the digit table fixed to the default one. -/
theorem decodeTableWord_eq_some_iff {nbits w : Nat} {i : Instr} :
    decodeTableWord nbits w = some i ↔ decode (defaultDigits none) (wordItem nbits w) = .ok i := by
  unfold decodeTableWord
  cases decode (defaultDigits none) (wordItem nbits w) with
  | ok j => simp
  | error e => simp

/-! ### The obligations -/

/-- Settles O4: the three results of `step`, by what is pending and what it decodes to. -/
theorem stepRunsTheDecodedOperation : Obligations.StepRunsTheDecodedOperation :=
  ⟨fun _ _ _ _ => step_of_decode_ok, fun _ => step_of_stim_nil, fun _ _ _ _ => step_of_decode_error⟩

/-- Settles O5: the placed word is the oldest item, it decodes under the state's own table as under the default one, and taking
it restores the state. -/
theorem fetchedWordRunsNext : Obligations.FetchedWordRunsNext := by
  intro s nbits w i hdigit hword
  have hdec : decode (s.withFetchWord nbits w).cfg.digit (wordItem nbits w) = .ok i := by
    rw [withFetchWord_cfg, hdigit]
    exact decodeTableWord_eq_some_iff.mp hword
  calc step (s.withFetchWord nbits w)
      = exec i { s.withFetchWord nbits w with stim := s.stim } := step_of_decode_ok (withFetchWord_stim s nbits w) hdec
    _ = exec i s := by rw [withFetchWord_taken]

end Sys2Proof.Machine
end

