-- ==== Sys2Proof/Proofs/State.lean ====
section
/-! The state: the invariant after reset and over every operation (10_state.md R10 to R27, 43_bridge_arbiter.md R140), who writes
the position (R13), and what no operation touches (R25, R191). -/

namespace Sys2Proof.Machine

/-! ### The parameters -/

/-- R214, as propositions. -/
theorem params_ok_iff (c : Params) : c.ok = true ↔
    1 ≤ c.kaInterval ∧ 1 ≤ c.spacing ∧ 1 ≤ c.wdtTimeout ∧ 1 ≤ c.chunkMax ∧ (c.digit.map Prod.fst).Nodup := by
  simp [Params.ok, and_assoc]

theorem one_le_kaInterval {c : Params} (h : c.ok = true) : 1 ≤ c.kaInterval := by
  obtain ⟨hka, -⟩ := (params_ok_iff c).mp h
  exact hka

theorem one_le_spacing {c : Params} (h : c.ok = true) : 1 ≤ c.spacing := by
  obtain ⟨-, hsp, -⟩ := (params_ok_iff c).mp h
  exact hsp

theorem one_le_wdtTimeout {c : Params} (h : c.ok = true) : 1 ≤ c.wdtTimeout := by
  obtain ⟨-, -, hwdt, -⟩ := (params_ok_iff c).mp h
  exact hwdt

/-! ### What stands outside the block, and the reset -/

/-- The invariant says nothing of what is pending and what was emitted. -/
theorem inv_withLists {s : State} (h : Inv s) (stim : List Item) (trace : List Output) :
    Inv { s with stim := stim, trace := trace } :=
  { h with diagQuiet := fun hd => congrArg (fun u : State => { u with stim := stim, trace := trace }) (h.diagQuiet hd) }

/-- R211: the values after reset meet the invariant. -/
theorem inv_resetOf {c : Params} (h : c.ok = true) : Inv (State.resetOf c) where
  params := h
  bufH := bufOk_nil _
  bufC := bufOk_nil _
  pos := ⟨Nat.zero_le _, .inr (.inr rfl)⟩
  cmdHolds := by simp [State.resetOf]
  kaHolds := by simp [State.resetOf]
  actHigh := by simp [State.resetOf]
  cmdRange := ⟨Nat.zero_le _, Nat.zero_le _⟩
  kaRange := ⟨Nat.zero_le _, Nat.zero_le _⟩
  cmdCounts := nofun
  kaCounts := nofun
  timerRange := le_rfl
  timerCounts := fun _ => one_le_kaInterval h
  pending := nofun
  wdt := ⟨one_le_wdtTimeout h, le_rfl⟩
  stoppedH := nofun
  stoppedC := nofun
  kaStopped := by simp [State.resetOf]
  modeInit := by simp [State.resetOf]
  diagQuiet := fun _ => rfl

theorem inv_resetBlock {s : State} (h : s.cfg.ok = true) : Inv (resetBlock s) := inv_withLists (inv_resetOf h) s.stim s.trace

theorem inv_wdtExpire {s : State} (h : s.cfg.ok = true) : Inv (wdtExpire s) := inv_resetBlock h

/-! ### Mode `Diag` -/

/-- R190: in `Diag` the block is as a reset leaves it. -/
theorem diag_eq_resetBlock {s : State} (h : Inv s) (hd : s.mode = .diag) : s = resetBlock s := h.diagQuiet hd

/-- R190: feeding the watchdog finds it full. -/
theorem feed_diag {s : State} (h : Inv s) (hd : s.mode = .diag) : feed s = s := by
  rw [diag_eq_resetBlock h hd]; rfl

/-- R190: an activity signal finds the interval unspent. -/
theorem signalActivity_diag {s : State} (h : Inv s) (hd : s.mode = .diag) : signalActivity s = s := by
  rw [diag_eq_resetBlock h hd]; rfl

/-- R190: in `Diag` an operation can only emit or return something. -/
theorem exec_diag_frame {i : Instr} {s t : State} (h : Inv s) (hd : s.mode = .diag) (e : exec i s = .next t) :
    t = { s with trace := t.trace } := by
  have notRun : s.mode ≠ .run := by simp [hd]
  cases exec_effect e with
  | handset _ e => rw [e.diag hd]
  | controller _ e => rw [e.diag hd]
  | tickDiag _ _ e =>
    rw [e, tickDiag, feed_diag h hd]
    rfl
  | reset _ e => rw [e, ← diag_eq_resetBlock h hd]
  | signal _ e => rw [e, signalActivity_diag h hd]
  | feed _ e => rw [e, feed_diag h hd]
  | result r _ _ e => rw [e]; rfl
  | nothing _ _ e => rw [e]
  | tickRun _ m _ => exact absurd m notRun
  | cmdWrite _ m _ _ => exact absurd m notRun
  | kaWrite _ m _ _ => exact absurd m notRun
  | grantCmd _ m _ _ _ => exact absurd m notRun
  | grantKa _ m _ _ _ => exact absurd m notRun
  | cancel _ m _ => exact absurd m notRun
  | moveTo _ _ _ m _ _ => exact absurd m notRun
  | remote _ _ m _ => exact absurd m notRun

/-! ### Arrivals -/

/-- In mode `Run` the invariant's clause about `Diag` asks nothing. -/
theorem not_diag_of_run {m : Mode} {p : Prop} (hrun : m = .run) (hd : m = .diag) : p := by
  rw [hrun] at hd; cases hd

/-- A down-counter that was left alone or reloaded with a positive value stays in its range. -/
theorem count_in_range {n n' top : Nat} (htop : 1 ≤ top) (hn : 1 ≤ n ∧ n ≤ top) (h : n' = n ∨ n' = top) :
    1 ≤ n' ∧ n' ≤ top := by omega

/-- R17, R81: a loop that stopped did so at a cancellation. -/
theorem stopped_of_run {r r' : RunState} {cancel : Bool} (hs : r = .stopped → cancel = true)
    (h : r' = r ∨ (r = .running ∧ r' = .stopped ∧ cancel = true)) : r' = .stopped → cancel = true := by
  rcases h with h | ⟨-, -, hc⟩
  · rwa [h]
  · exact fun _ => hc

theorem inv_handset {s t : State} (h : Inv s) (hrun : s.mode = .run) (e : HandsetEffect s t) : Inv t := by
  obtain ⟨frame, wdt, timer, pending, buf, run, -, -⟩ := e
  have hka := one_le_kaInterval h.params
  rw [frame]
  exact { h with
    bufH := buf h.bufH
    timerRange := by
      rcases timer with ht | ⟨-, ht⟩
      · exact ht ▸ h.timerRange
      · exact ht.le
    timerCounts := fun hw => by
      rcases timer with ht | ⟨-, ht⟩
      · exact ht ▸ h.timerCounts hw
      · exact ht ▸ hka
    pending := by
      rcases pending with hp | hw
      · exact hp ▸ h.pending
      · exact fun _ => hw
    wdt := count_in_range (one_le_wdtTimeout h.params) h.wdt wdt
    stoppedH := stopped_of_run h.stoppedH run
    diagQuiet := not_diag_of_run hrun }

theorem inv_controller {s t : State} (h : Inv s) (hrun : s.mode = .run) (e : ControllerEffect s t) : Inv t := by
  obtain ⟨frame, wdt, pos, buf, run, -, -⟩ := e
  rw [frame]
  exact { h with
    bufC := buf h.bufC
    pos := by
      rcases pos with hp | ⟨f, hf⟩
      · exact hp ▸ h.pos
      · exact decodeDisplay_value_inRange hf
    wdt := count_in_range (one_le_wdtTimeout h.params) h.wdt wdt
    stoppedC := stopped_of_run h.stoppedC run
    diagQuiet := not_diag_of_run hrun }

/-! ### Activity, feed, cancellation, the host's operations -/

theorem inv_signalActivity {s : State} (h : Inv s) (hrun : s.mode = .run) : Inv (signalActivity s) := by
  have hka := one_le_kaInterval h.params
  by_cases hw : s.kaState = .waiting
  · rw [signalActivity_waiting hw]
    exact { h with timerRange := le_rfl, timerCounts := fun _ => hka, diagQuiet := not_diag_of_run hrun }
  · rw [signalActivity_elsewhere hw]
    exact { h with pending := fun _ => hw, diagQuiet := not_diag_of_run hrun }

theorem inv_feed {s : State} (h : Inv s) (hrun : s.mode = .run) : Inv (feed s) := by
  rw [feed_eq]
  exact { h with wdt := ⟨one_le_wdtTimeout h.params, le_rfl⟩, diagQuiet := not_diag_of_run hrun }

theorem inv_setRemote {s : State} (h : Inv s) (hrun : s.mode = .run) (b : Bool) : Inv { s with remoteEn := b } :=
  { h with diagQuiet := not_diag_of_run hrun }

/-- R143: the bus stays with whoever has it while the command waits. -/
theorem inv_acceptCommand {s : State} (h : Inv s) (hrun : s.mode = .run) (hidle : s.cmdState = .idle) (sl : Slot) :
    Inv { s with cmdSlot := sl, cmdState := .waitLock } :=
  { h with
    cmdHolds := by simpa [hidle] using h.cmdHolds
    cmdCounts := nofun
    diagQuiet := not_diag_of_run hrun }

/-- R167: a keep-alive burst gives the bus back, so that the stopped task does not hold it; a command burst keeps it. -/
theorem inv_cancelRun {s : State} (h : Inv s) (hrun : s.mode = .run) : Inv (cancelRun s) := by
  by_cases hb : s.kaState = .firingBurst
  · have hbus : s.busOwner = .ka := h.kaHolds.mpr hb
    have hcmd : s.cmdState ≠ .burst := fun hc => by simpa [hbus] using h.cmdHolds.mpr hc
    rw [cancelRun, cutKaBurst_cuts hb]
    exact { h with
      cmdHolds := by simpa using hcmd
      kaHolds := by simp
      actHigh := by simp
      kaCounts := nofun
      timerCounts := nofun
      pending := nofun
      stoppedH := fun _ => rfl
      stoppedC := fun _ => rfl
      kaStopped := by simp
      diagQuiet := not_diag_of_run hrun }
  · have hbus : s.busOwner ≠ .ka := fun hk => hb (h.kaHolds.mp hk)
    rw [cancelRun, cutKaBurst_same hb]
    exact { h with
      kaHolds := by simpa using hbus
      kaCounts := nofun
      timerCounts := nofun
      pending := nofun
      stoppedH := fun _ => rfl
      stoppedC := fun _ => rfl
      kaStopped := by simp
      diagQuiet := not_diag_of_run hrun }

/-! ### Grants and bursts -/

/-- R140, R144: a free bus goes to the sequencer, and the task holds none. -/
theorem inv_startCmdBurst {s : State} (h : Inv s) (hrun : s.mode = .run) (hfree : s.busOwner = .free) :
    Inv (startCmdBurst s) := by
  have hka : s.kaState ≠ .firingBurst := fun hk => by simpa [hfree] using h.kaHolds.mpr hk
  have hsp := one_le_spacing h.params
  rw [startCmdBurst_eq]
  exact { h with
    cmdHolds := by simp
    kaHolds := by simpa using hka
    actHigh := by simp
    cmdRange := ⟨le_rfl, le_rfl⟩
    cmdCounts := fun _ => ⟨show 1 ≤ 4 by decide, hsp⟩
    diagQuiet := not_diag_of_run hrun }

/-- R140, R163: a free bus goes to the task, and the sequencer holds none. -/
theorem inv_startKaBurst {s : State} (h : Inv s) (hrun : s.mode = .run) (hfree : s.busOwner = .free)
    (hwait : s.kaState = .firingWait) : Inv (startKaBurst s) := by
  have hcmd : s.cmdState ≠ .burst := fun hc => by simpa [hfree] using h.cmdHolds.mpr hc
  have hsp := one_le_spacing h.params
  rw [startKaBurst_eq]
  exact { h with
    cmdHolds := by simpa using hcmd
    kaHolds := by simp
    actHigh := by simp
    kaRange := ⟨le_rfl, le_rfl⟩
    kaCounts := fun _ => ⟨show 1 ≤ 4 by decide, hsp⟩
    timerCounts := nofun
    pending := nofun
    kaStopped := by simpa [hwait] using h.kaStopped
    diagQuiet := not_diag_of_run hrun }

/-- R145, R146: a write of the command burst, whatever the spacing counter holds when it is made: the write reloads it, or it is
the last and the counter is read no more. -/
theorem inv_writeCmdBurst {s t : State} {sp : Nat} (h : Inv s) (hrun : s.mode = .run) (hb : s.cmdState = .burst)
    (hsp : sp ≤ s.cfg.spacing) (e : writeCmdBurst { s with cmdSp := sp } = .next t) : Inv t := by
  have hpos := one_le_spacing h.params
  have hka := one_le_kaInterval h.params
  obtain ⟨hn4, -⟩ := h.cmdRange
  rcases writeCmdBurst_next_iff.mp e with ⟨hn, rfl⟩ | ⟨-, rfl⟩
  · replace hn : 2 ≤ s.cmdN := hn
    exact { h with
      cmdRange := ⟨(Nat.sub_le _ _).trans hn4, le_rfl⟩
      cmdCounts := fun _ => ⟨Nat.le_sub_one_of_lt hn, hpos⟩
      diagQuiet := not_diag_of_run hrun }
  · have hbus : s.busOwner = .cmd := h.cmdHolds.mpr hb
    have hnotKa : s.kaState ≠ .firingBurst := fun hk => by simpa [hbus] using h.kaHolds.mpr hk
    exact { h with
      cmdHolds := by simp
      kaHolds := by simpa using hnotKa
      actHigh := by simp
      cmdRange := ⟨Nat.zero_le _, hsp⟩
      cmdCounts := nofun
      timerRange := by
        dsimp only
        split
        · exact le_rfl
        · exact h.timerRange
      timerCounts := fun hw => by
        dsimp only at hw ⊢
        rw [if_pos hw]
        exact hka
      pending := fun hp hw => by
        dsimp only at hp hw
        rw [if_pos hw] at hp
        exact h.pending hp hw
      diagQuiet := not_diag_of_run hrun }

/-- R163, R164: the same for the keep-alive burst, whose end restarts the interval. -/
theorem inv_writeKaBurst {s t : State} {sp : Nat} (h : Inv s) (hrun : s.mode = .run) (hb : s.kaState = .firingBurst)
    (hsp : sp ≤ s.cfg.spacing) (e : writeKaBurst { s with kaSp := sp } = .next t) : Inv t := by
  have hpos := one_le_spacing h.params
  have hka := one_le_kaInterval h.params
  obtain ⟨hn4, -⟩ := h.kaRange
  rcases writeKaBurst_next_iff.mp e with ⟨hn, rfl⟩ | ⟨-, rfl⟩
  · replace hn : 2 ≤ s.kaN := hn
    exact { h with
      kaRange := ⟨(Nat.sub_le _ _).trans hn4, le_rfl⟩
      kaCounts := fun _ => ⟨Nat.le_sub_one_of_lt hn, hpos⟩
      diagQuiet := not_diag_of_run hrun }
  · have hbus : s.busOwner = .ka := h.kaHolds.mpr hb
    have hnotCmd : s.cmdState ≠ .burst := fun hc => by simpa [hbus] using h.cmdHolds.mpr hc
    exact { h with
      cmdHolds := by simpa using hnotCmd
      kaHolds := by simp
      actHigh := by simp
      kaRange := ⟨Nat.zero_le _, hsp⟩
      kaCounts := nofun
      timerRange := le_rfl
      timerCounts := fun _ => hka
      pending := nofun
      kaStopped := by simpa [hb] using h.kaStopped
      diagQuiet := not_diag_of_run hrun }

/-! ### Ticks -/

theorem inv_countWatchdog {s : State} (h : Inv s) (hrun : s.mode = .run) (hw : 2 ≤ s.wdtCnt) :
    Inv { s with wdtCnt := s.wdtCnt - 1 } :=
  { h with
    wdt := ⟨Nat.le_sub_one_of_lt hw, (Nat.sub_le _ _).trans h.wdt.2⟩
    diagQuiet := not_diag_of_run hrun }

/-- R161, R162: the task leaves `Waiting` in the very tick in which the timer reaches 0. -/
theorem inv_afterInterval {s : State} (h : Inv s) (hrun : s.mode = .run) : Inv (afterInterval s) := by
  unfold afterInterval
  split
  case isFalse => exact h
  case isTrue hw =>
    have hbus : s.busOwner ≠ .ka := fun hk => by simpa [hw] using h.kaHolds.mp hk
    have hcancel : s.cancel ≠ true := fun hc => by simpa [hw] using h.kaStopped.mpr hc
    have hnotPending : s.kaPending ≠ true := fun hp => h.pending hp hw
    have htimer := h.timerCounts hw
    exact { h with
      kaHolds := iff_of_false hbus (by dsimp only; split <;> nofun)
      kaCounts := fun hk => by dsimp only at hk; split at hk <;> cases hk
      timerRange := (Nat.sub_le _ _).trans h.timerRange
      timerCounts := fun hk => by
        dsimp only at hk ⊢
        split at hk
        · cases hk
        · omega
      pending := fun hp => absurd hp hnotPending
      kaStopped := iff_of_false (by dsimp only; split <;> nofun) hcancel
      diagQuiet := not_diag_of_run hrun }

theorem inv_cmdTick {s t : State} (h : Inv s) (hrun : s.mode = .run) (e : cmdTick s = .next t) : Inv t := by
  obtain ⟨hn4, hsp⟩ := h.cmdRange
  rcases cmdTick_next_iff.mp e with ⟨-, rfl⟩ | ⟨hb, h2, rfl⟩ | ⟨hb, -, hwrite⟩
  · exact h
  · exact { h with
      cmdRange := ⟨hn4, (Nat.sub_le _ _).trans hsp⟩
      cmdCounts := fun _ => ⟨(h.cmdCounts hb).1, Nat.le_sub_one_of_lt h2⟩
      diagQuiet := not_diag_of_run hrun }
  · exact inv_writeCmdBurst h hrun hb (Nat.zero_le _) hwrite

theorem inv_kaBurstTick {s t : State} (h : Inv s) (hrun : s.mode = .run) (e : kaBurstTick s = .next t) : Inv t := by
  obtain ⟨hn4, hsp⟩ := h.kaRange
  rcases kaBurstTick_next_iff.mp e with ⟨-, rfl⟩ | ⟨hb, h2, rfl⟩ | ⟨hb, -, hwrite⟩
  · exact h
  · exact { h with
      kaRange := ⟨hn4, (Nat.sub_le _ _).trans hsp⟩
      kaCounts := fun _ => ⟨(h.kaCounts hb).1, Nat.le_sub_one_of_lt h2⟩
      diagQuiet := not_diag_of_run hrun }
  · exact inv_writeKaBurst h hrun hb (Nat.zero_le _) hwrite

/-- R168, R171: an expiry resets; any other tick is its four parts, each of which keeps the invariant. -/
theorem inv_tickRun {s t : State} (h : Inv s) (hrun : s.mode = .run) (e : tickRun s = .next t) : Inv t := by
  rcases tickRun_next_iff.mp e with ⟨-, rfl⟩ | ⟨hw, -, u, hu, ht⟩
  · exact inv_wdtExpire h.params
  · have hcounted := inv_afterInterval (inv_countWatchdog h hrun hw) hrun
    have hmode : (afterInterval { s with wdtCnt := s.wdtCnt - 1 }).mode = .run := by rw [afterInterval_frame]; exact hrun
    obtain ⟨-, -, -, hmode'⟩ := cmdTick_keeps_ka hu
    exact inv_kaBurstTick (inv_cmdTick hcounted hmode hu) (hmode'.trans hmode) ht

/-! ### Every operation and every step -/

theorem exec_keeps_inv {i : Instr} {s t : State} (h : Inv s) (e : exec i s = .next t) : Inv t := by
  cases hmode : s.mode with
  | diag =>
    rw [exec_diag_frame h hmode e]
    exact inv_withLists h s.stim t.trace
  | run =>
    cases exec_effect e with
    | handset _ e => exact inv_handset h hmode e
    | controller _ e => exact inv_controller h hmode e
    | tickRun _ _ e => exact inv_tickRun h hmode e
    | tickDiag _ m _ => exact not_diag_of_run hmode m
    | reset _ e => exact e ▸ inv_resetBlock h.params
    | cmdWrite _ _ hb e => exact inv_writeCmdBurst h hmode hb h.cmdRange.2 e
    | kaWrite _ _ hb e => exact inv_writeKaBurst h hmode hb h.kaRange.2 e
    | grantCmd _ _ hfree _ e => exact e ▸ inv_startCmdBurst h hmode hfree
    | grantKa _ _ hfree hwait e => exact e ▸ inv_startKaBurst h hmode hfree hwait
    | cancel _ _ e => exact e ▸ inv_cancelRun h hmode
    | moveTo _ sl _ _ hidle e => exact e ▸ inv_acceptCommand h hmode hidle sl
    | remote b _ _ e => exact e ▸ inv_setRemote h hmode b
    | signal _ e => exact e ▸ inv_signalActivity h hmode
    | feed _ e => exact e ▸ inv_feed h hmode
    | result r _ _ e => exact e ▸ inv_withLists h s.stim _
    | nothing _ _ e => exact e ▸ h

/-! ### The position -/

/-- R111: a value without the mismatch mark comes from a payload with a good checksum. -/
theorem ckValid_of_decodeDisplay_value {d : DigitTable} {q : Payload} {m : Nat} {e : Int}
    (h : decodeDisplay d q = .value m e false) : ckValid q = true := by
  unfold decodeDisplay at h
  split at h
  · cases h
  · split at h
    · cases h
    · split at h
      · unfold decodeFault at h
        split at h <;> cases h
      · unfold decodeValue at h
        split at h
        · injection h with _ _ hbad
          simpa [ckBad] using hbad
        · cases h

/-- R13: without a reset only the controller line moves the position. -/
theorem exec_pos_of_not_controller {i : Instr} {s t : State} (e : exec i s = .next t) (hline : ¬ isControllerOp i)
    (hreset : ¬ Resets i s) : t.pos = s.pos := by
  cases exec_effect e with
  | handset _ e => rw [e.frame]
  | controller hc _ => exact absurd hc hline
  | tickRun hi m e =>
    obtain ⟨frame, -⟩ := tickRun_frame e fun hw => hreset (.inr ⟨hi, m, hw⟩)
    rw [frame]
  | tickDiag _ _ e => rw [e, tickDiag_pos]
  | reset hi _ => exact absurd (.inl hi) hreset
  | cmdWrite _ _ _ e => rcases writeCmdBurst_next_iff.mp e with ⟨-, rfl⟩ | ⟨-, rfl⟩ <;> rfl
  | kaWrite _ _ _ e => rcases writeKaBurst_next_iff.mp e with ⟨-, rfl⟩ | ⟨-, rfl⟩ <;> rfl
  | grantCmd _ _ _ _ e => rw [e, startCmdBurst_pos]
  | grantKa _ _ _ _ e => rw [e, startKaBurst_pos]
  | cancel _ _ e => rw [e, cancelRun_pos]
  | moveTo _ _ _ _ _ e => rw [e]
  | remote _ _ _ e => rw [e]
  | signal _ e => rw [e, signalActivity_pos]
  | feed _ e => rw [e, feed_pos]
  | result _ _ _ e => rw [e, giveBack_pos]
  | nothing _ _ e => rw [e]

/-- R137: a controller-line operation that moves the position delivers the frame whose value it takes. -/
theorem exec_pos_of_controller {i : Instr} {s t : State} (hbuf : bufOk Config.startC s.bufC) (e : exec i s = .next t)
    (hline : isControllerOp i) (hpos : t.pos ≠ s.pos) : ∃ f : Frame, readsOk .C f i s ∧
      decodeDisplay s.cfg.digit f.payload = .value t.pos.mantissa t.pos.exponent false := by
  rcases line_delivers (x := .C) hline hbuf e with ⟨f, hreads, rfl⟩ | ⟨-, _, _, _, _, _, rfl, -⟩
  · rcases pumpC_ok_pos f (setBuf .C [] s) with hsame | hvalue
    · exact absurd hsame hpos
    · exact ⟨f, hreads, hvalue⟩
  · exact absurd rfl hpos

/-- R211: what resets the block puts the position to zero. -/
theorem exec_pos_of_resets {i : Instr} {s t : State} (e : exec i s = .next t) (h : Resets i s) : t.pos = ⟨0, 0⟩ := by
  rcases h with rfl | ⟨rfl, hrun, hw⟩
  · cases e; rfl
  · have htick : exec .tick s = tickRun s := by simp only [exec, execTick, hrun]
    rw [htick, tickRun_expires hw] at e
    cases e
    rfl

/-! ### The parameters, what is pending, and the trace -/

/-- What no operation touches (R25, R191, log 1): the parameters, what is pending, and what was emitted before. -/
def OutsideKept (s t : State) : Prop := t.cfg = s.cfg ∧ t.stim = s.stim ∧ s.trace <+: t.trace

theorem OutsideKept.refl (s : State) : OutsideKept s s := ⟨rfl, rfl, List.prefix_rfl⟩

theorem outsideKept_of_append {s t : State} (hcfg : t.cfg = s.cfg) (hstim : t.stim = s.stim)
    (htrace : ∃ out, t.trace = s.trace ++ out) : OutsideKept s t := by
  obtain ⟨out, hout⟩ := htrace
  exact ⟨hcfg, hstim, out, hout.symm⟩

theorem tickRun_outsideKept {s t : State} (e : tickRun s = .next t) : OutsideKept s t := by
  obtain ⟨out, hout, -⟩ := tickRun_trace e
  by_cases hw : s.wdtCnt = 1
  · rw [tickRun_expires hw] at e
    cases e
    exact outsideKept_of_append rfl rfl ⟨out, hout⟩
  · obtain ⟨frame, -⟩ := tickRun_frame e hw
    exact outsideKept_of_append (by rw [frame]) (by rw [frame]) ⟨out, hout⟩

theorem cancelRun_outsideKept (s : State) : OutsideKept s (cancelRun s) := by
  refine ⟨cancelRun_cfg s, cancelRun_stim s, ?_⟩
  rw [cancelRun_trace]
  split
  · exact List.prefix_append _ _
  · exact List.prefix_rfl

theorem exec_outsideKept {i : Instr} {s t : State} (e : exec i s = .next t) : OutsideKept s t := by
  cases exec_effect e with
  | handset _ e =>
    obtain ⟨out, hout, -⟩ := e.outs
    exact outsideKept_of_append (by rw [e.frame]) (by rw [e.frame]) ⟨out, hout⟩
  | controller _ e =>
    obtain ⟨out, hout, -⟩ := e.outs
    exact outsideKept_of_append (by rw [e.frame]) (by rw [e.frame]) ⟨out, hout⟩
  | tickRun _ _ e => exact tickRun_outsideKept e
  | tickDiag _ _ e => exact e ▸ outsideKept_of_append rfl rfl ⟨_, rfl⟩
  | reset _ e => exact e ▸ outsideKept_of_append rfl rfl ⟨[], by simp⟩
  | cmdWrite _ _ _ e =>
    rcases writeCmdBurst_next_iff.mp e with ⟨-, rfl⟩ | ⟨-, rfl⟩ <;> exact outsideKept_of_append rfl rfl ⟨_, rfl⟩
  | kaWrite _ _ _ e =>
    rcases writeKaBurst_next_iff.mp e with ⟨-, rfl⟩ | ⟨-, rfl⟩ <;> exact outsideKept_of_append rfl rfl ⟨_, rfl⟩
  | grantCmd _ _ _ _ e => rw [e, startCmdBurst_eq]; exact outsideKept_of_append rfl rfl ⟨_, rfl⟩
  | grantKa _ _ _ _ e => rw [e, startKaBurst_eq]; exact outsideKept_of_append rfl rfl ⟨_, rfl⟩
  | cancel _ _ e => exact e ▸ cancelRun_outsideKept s
  | moveTo _ _ _ _ _ e => exact e ▸ OutsideKept.refl s
  | remote _ _ _ e => exact e ▸ OutsideKept.refl s
  | signal _ e => rw [e, signalActivity_eq]; exact OutsideKept.refl s
  | feed _ e => exact e ▸ OutsideKept.refl s
  | result _ _ _ e => exact e ▸ outsideKept_of_append rfl rfl ⟨_, rfl⟩
  | nothing _ _ e => exact e ▸ OutsideKept.refl s

/-! ### The obligations -/

/-- Settles O47: every clause of the invariant at the reset values, for any parameters that meet R214, and the model's do. -/
theorem invariantAtReset : Obligations.InvariantAtReset :=
  ⟨fun _ => inv_resetOf, inv_resetOf (by decide)⟩

/-- Settles O50: by the cases of what an operation can do. -/
theorem parametersConstantTraceGrows : Obligations.ParametersConstantTraceGrows := fun _ _ _ => exec_outsideKept

/-- Settles O32: a reset, a controller-line operation, or neither; in the last case the position stays. -/
theorem positionHasOneWriter : Obligations.PositionHasOneWriter := by
  intro i s t hbuf e hpos
  by_cases hreset : Resets i s
  · exact .inr ⟨hreset, exec_pos_of_resets e hreset⟩
  · have hline : isControllerOp i := by
      by_contra hline
      exact hpos (exec_pos_of_not_controller e hline hreset)
    obtain ⟨f, hreads, hvalue⟩ := exec_pos_of_controller hbuf e hline hpos
    exact .inl ⟨f, hreads, ckValid_of_decodeDisplay_value hvalue, hvalue⟩

/-- Settles O48: a step does nothing, refuses, or performs one operation on what is left after taking its item, and every
operation keeps the invariant. -/
theorem everyStepKeepsInvariant : Obligations.EveryStepKeepsInvariant := by
  intro s t h e
  cases hstim : s.stim with
  | nil =>
    rw [step_of_stim_nil hstim] at e
    cases e
    exact h
  | cons it rest =>
    cases hdec : decode s.cfg.digit it with
    | ok i =>
      rw [step_of_decode_ok hstim hdec] at e
      exact exec_keeps_inv (inv_withLists h rest s.trace) e
    | error err =>
      rw [step_of_decode_error hstim hdec] at e
      cases e

end Sys2Proof.Machine
end

/-! The event streams: what each line's operations leave alone, who writes to which line (20_memory.md R41 to R43, R50,
43_bridge_arbiter.md R138, R140), how a stream may be cut into polls (R40, R83, R84), and where the model stops by name
(log 10, log 11). -/

namespace Sys2Proof.Machine

/-! ### Operations of one line -/

theorem exec_rxInstr (x : Line) (chunk : List Byte) (s : State) : exec (rxInstr x chunk) s = rxEvent x chunk s := by
  cases x <;> rfl

theorem exec_handsetEffect {i : Instr} {s t : State} (hline : isHandsetOp i) (e : exec i s = .next t) :
    HandsetEffect s t := by
  rcases hline with ⟨chunk, rfl⟩ | rfl | ⟨_, _, _, _, rfl⟩
  · exact handsetEffect_rx e
  · cases e
    exact handsetEffect_error s
  · exact handsetEffect_frame e

theorem exec_controllerEffect {i : Instr} {s t : State} (hline : isControllerOp i) (e : exec i s = .next t) :
    ControllerEffect s t := by
  rcases hline with ⟨chunk, rfl⟩ | rfl | rfl | rfl | ⟨_, _, _, _, rfl⟩ | ⟨_, _, _, _, rfl⟩
  · exact controllerEffect_rx e
  · cases e
    exact controllerEffect_error s
  · exact controllerEffect_frame e
  · exact controllerEffect_frame e
  · exact controllerEffect_frame e
  · exact controllerEffect_frame e

/-- R43: the handset line's operations touch nothing that the controller line's reader and pump own. -/
theorem exec_handset_leaves {i : Instr} {s t : State} (hline : isHandsetOp i) (e : exec i s = .next t) :
    t.bufC = s.bufC ∧ t.runC = s.runC ∧ t.pos = s.pos := by
  have frame := (exec_handsetEffect hline e).frame
  exact ⟨by rw [frame], by rw [frame], by rw [frame]⟩

/-- R43: the controller line's operations touch nothing that the handset line's reader and pump own. -/
theorem exec_controller_leaves {i : Instr} {s t : State} (hline : isControllerOp i) (e : exec i s = .next t) :
    t.bufH = s.bufH ∧ t.runH = s.runH ∧ t.prevKeys = s.prevKeys ∧ t.kaTimer = s.kaTimer ∧ t.kaPending = s.kaPending := by
  have frame := (exec_controllerEffect hline e).frame
  exact ⟨by rw [frame], by rw [frame], by rw [frame], by rw [frame], by rw [frame]⟩

theorem exec_controller_no_txCtrl {i : Instr} {s t : State} (hline : isControllerOp i) (e : exec i s = .next t) (f : Frame) :
    .txCtrl f ∉ newOutputs s t := by
  obtain ⟨out, htrace, hctrl, -⟩ := (exec_controllerEffect hline e).outs
  rw [newOutputs_of_append htrace]
  exact hctrl f

/-! ### Who writes to a line -/

/-- The five ways in which an operation from `s` to `t` can write frame `f` to the controller bus (R42). -/
inductive BusWrite (i : Instr) (s t : State) (f : Frame) : Prop where
  /-- Pump H forwards a frame at a free bus and leaves the bus free (R134). -/
  | forwarded (free : s.busOwner = .free) (line : isHandsetOp i) (left : t.busOwner = .free)
  /-- `GRANT(Cmd)` takes a free bus and makes the first write (R144). -/
  | cmdStart (free : s.busOwner = .free) (grant : i = .grantCmd) (frame : f = slotFrame s.cmdSlot) (taken : t.busOwner = .cmd)
  /-- `GRANT(Ka)` does the same (R163). -/
  | kaStart (free : s.busOwner = .free) (grant : i = .grantKa) (frame : f = encodeKeepalive) (taken : t.busOwner = .ka)
  /-- A further write of the command burst (R145). -/
  | cmdMore (burst : s.cmdState = .burst) (frame : f = slotFrame s.cmdSlot)
  /-- A further write of the keep-alive burst (R163). -/
  | kaMore (burst : s.kaState = .firingBurst) (frame : f = encodeKeepalive)

/-- From `s` to `t`, operation `i` puts out `out`, and each frame in it has a writer: one of the five on the controller bus,
pass-through on the handset line (R138). -/
structure Emits (i : Instr) (s t : State) (out : List Output) : Prop where
  trace : t.trace = s.trace ++ out
  ctrl : ∀ f, .txCtrl f ∈ out → BusWrite i s t f
  hand : ∀ f, .txHand f ∈ out → isControllerOp i ∧ s.cfg.passThrough = true

/-- An operation that writes no frame needs no writer. -/
theorem Emits.of_no_frame {i : Instr} {s t : State} {out : List Output} (htrace : t.trace = s.trace ++ out)
    (hctrl : ∀ f, .txCtrl f ∉ out) (hhand : ∀ f, .txHand f ∉ out) : Emits i s t out :=
  ⟨htrace, fun f hf => absurd hf (hctrl f), fun f hf => absurd hf (hhand f)⟩

theorem Emits.of_same_trace {i : Instr} {s t : State} (htrace : t.trace = s.trace) : Emits i s t [] :=
  .of_no_frame (by simpa using htrace) (by simp) (by simp)

theorem emits_handset {i : Instr} {s t : State} (hline : isHandsetOp i) (e : HandsetEffect s t) : ∃ out, Emits i s t out := by
  obtain ⟨out, htrace, hfree, hhand, -⟩ := e.outs
  have hbus : t.busOwner = s.busOwner := by rw [e.frame]
  exact ⟨out, htrace, fun f hf => .forwarded (hfree f hf) hline (hbus.trans (hfree f hf)),
    fun f hf => absurd hf (hhand f)⟩

theorem emits_controller {i : Instr} {s t : State} (hline : isControllerOp i) (e : ControllerEffect s t) :
    ∃ out, Emits i s t out := by
  obtain ⟨out, htrace, hctrl, hpass, -⟩ := e.outs
  exact ⟨out, htrace, fun f hf => absurd hf (hctrl f), fun f hf => ⟨hline, hpass f hf⟩⟩

theorem emits_tickRun {i : Instr} {s t : State} (e : tickRun s = .next t) : ∃ out, Emits i s t out := by
  obtain ⟨out, htrace, hctrl, hhand, -⟩ := tickRun_trace e
  refine ⟨out, htrace, fun f hf => ?_, fun f hf => absurd hf (hhand f)⟩
  rcases hctrl f hf with ⟨hburst, hframe⟩ | ⟨hburst, hframe⟩
  · exact .cmdMore hburst hframe
  · exact .kaMore hburst hframe

theorem emits_cmdWrite {i : Instr} {s t : State} (hburst : s.cmdState = .burst) (e : writeCmdBurst s = .next t) :
    ∃ out, Emits i s t out := by
  obtain ⟨out, htrace, hctrl, hhand, -⟩ := writeCmdBurst_trace e
  exact ⟨out, htrace, fun f hf => .cmdMore hburst (hctrl f hf), fun f hf => absurd hf (hhand f)⟩

theorem emits_kaWrite {i : Instr} {s t : State} (hburst : s.kaState = .firingBurst) (e : writeKaBurst s = .next t) :
    ∃ out, Emits i s t out := by
  obtain ⟨out, htrace, hctrl, hhand, -⟩ := writeKaBurst_trace e
  exact ⟨out, htrace, fun f hf => .kaMore hburst (hctrl f hf), fun f hf => absurd hf (hhand f)⟩

theorem emits_startCmdBurst {s : State} (hfree : s.busOwner = .free) :
    Emits .grantCmd s (startCmdBurst s) [.act true, .txCtrl (slotFrame s.cmdSlot)] where
  trace := by rw [startCmdBurst_eq]
  ctrl f hf := .cmdStart hfree rfl (by simpa using hf) rfl
  hand := by simp

theorem emits_startKaBurst {s : State} (hfree : s.busOwner = .free) :
    Emits .grantKa s (startKaBurst s) [.act true, .txCtrl encodeKeepalive] where
  trace := by rw [startKaBurst_eq]
  ctrl f hf := .kaStart hfree rfl (by simpa using hf) rfl
  hand := by simp

theorem emits_cancelRun {i : Instr} (s : State) : ∃ out, Emits i s (cancelRun s) out := by
  by_cases hburst : s.kaState = .firingBurst
  · exact ⟨[.act false], .of_no_frame (by rw [cancelRun_trace, if_pos hburst]) (by simp) (by simp)⟩
  · exact ⟨[], .of_same_trace (by rw [cancelRun_trace, if_neg hburst])⟩

/-- R42, R138: every frame that any operation writes has its writer. -/
theorem exec_emits {i : Instr} {s t : State} (e : exec i s = .next t) : ∃ out, Emits i s t out := by
  cases exec_effect e with
  | handset hline e => exact emits_handset hline e
  | controller hline e => exact emits_controller hline e
  | tickRun _ _ e => exact emits_tickRun e
  | tickDiag _ _ e => exact e ▸ ⟨[.diag .initFail], .of_no_frame rfl (by simp) (by simp)⟩
  | reset _ e => exact e ▸ ⟨[], .of_same_trace rfl⟩
  | cmdWrite _ _ hburst e => exact emits_cmdWrite hburst e
  | kaWrite _ _ hburst e => exact emits_kaWrite hburst e
  | grantCmd hi _ hfree _ e => exact hi ▸ e ▸ ⟨_, emits_startCmdBurst hfree⟩
  | grantKa hi _ hfree _ e => exact hi ▸ e ▸ ⟨_, emits_startKaBurst hfree⟩
  | cancel _ _ e => exact e ▸ emits_cancelRun s
  | moveTo _ _ _ _ _ e => exact e ▸ ⟨[], .of_same_trace rfl⟩
  | remote _ _ _ e => exact e ▸ ⟨[], .of_same_trace rfl⟩
  | signal _ e => exact e ▸ ⟨[], .of_same_trace (signalActivity_trace s)⟩
  | feed _ e => exact e ▸ ⟨[], .of_same_trace rfl⟩
  | result r _ _ e => exact e ▸ ⟨[.ret r], .of_no_frame rfl (by simp) (by simp)⟩
  | nothing _ _ e => exact e ▸ ⟨[], .of_same_trace rfl⟩

theorem busWrite_of_txCtrl {i : Instr} {s t : State} {f : Frame} (e : exec i s = .next t)
    (hf : .txCtrl f ∈ newOutputs s t) : BusWrite i s t f := by
  obtain ⟨out, hout⟩ := exec_emits e
  rw [newOutputs_of_append hout.trace] at hf
  exact hout.ctrl f hf

theorem passThrough_of_txHand {i : Instr} {s t : State} {f : Frame} (e : exec i s = .next t)
    (hf : .txHand f ∈ newOutputs s t) : isControllerOp i ∧ s.cfg.passThrough = true := by
  obtain ⟨out, hout⟩ := exec_emits e
  rw [newOutputs_of_append hout.trace] at hf
  exact hout.hand f hf

/-! ### Cutting a stream into polls -/

/-- Taking bytes in is one pass over them, wherever the stream is cut (R83). -/
theorem takeIn_append (start : Byte) (buf first second : List Byte) :
    takeIn start (takeIn start buf first) second = takeIn start buf (first ++ second) := by
  induction first generalizing buf with
  | nil => rfl
  | cons b rest ih => exact ih _

theorem accumulated_append (x : Line) (first second : List Byte) (s : State) :
    accumulated x second (setBuf x (accumulated x first s) s) = accumulated x (first ++ second) s := by
  rw [← takeIn_accumulated, bufOf_setBuf_same, ← takeIn_accumulated, takeIn_append, takeIn_accumulated]

/-- A polling reader's poll depends on its buffer only through what has accumulated at its end (R84, R89). -/
theorem pollLine_of_accumulated {x : Line} {s : State} {buf chunk whole : List Byte} (hpolls : Polls x s)
    (hacc : accumulated x chunk (setBuf x buf s) = accumulated x whole s) :
    pollLine x chunk (setBuf x buf s) = pollLine x whole s := by
  have hpolls' : Polls x (setBuf x buf s) := polls_setBuf buf hpolls
  by_cases hshort : (accumulated x whole s).length < 5
  · rw [pollLine_incomplete hpolls hshort, pollLine_incomplete hpolls' (by rwa [hacc]), hacc, setBuf_setBuf]
  · have hfull : 5 ≤ (accumulated x whole s).length := Nat.not_lt.mp hshort
    rw [pollLine_complete hpolls hfull, pollLine_complete hpolls' (by rwa [hacc]), hacc, setBuf_setBuf]

/-- Two polls of a reader that is off or finds the cancellation do what one does, whatever the chunks hold (R81, R190). -/
theorem pollLine_notPolls_twice {x : Line} {s : State} (first second whole : List Byte) (h : ¬ Polls x s) :
    pollLine x second (pollLine x first s) = pollLine x whole s := by
  by_cases hoff : s.mode = .diag ∨ runOf x s = .stopped
  · rw [pollLine_off hoff, pollLine_off hoff, pollLine_off hoff]
  · obtain ⟨hmode, hrun⟩ := not_or.mp hoff
    replace hmode : s.mode = .run := by
      cases h' : s.mode with
      | run => rfl
      | diag => exact absurd h' hmode
    replace hrun : runOf x s = .running := by
      cases h' : runOf x s with
      | running => rfl
      | stopped => exact absurd h' hrun
    have hcancel : s.cancel = true := by
      by_contra hc
      exact h ⟨hmode, hrun, Bool.eq_false_iff.mpr hc⟩
    have hstopped : runOf x (raiseDiag (.canceled x) (setRun x .stopped (setBuf x [] s))) = .stopped := by cases x <;> rfl
    rw [pollLine_cancelled hmode hrun hcancel, pollLine_cancelled hmode hrun hcancel, pollLine_off (.inr hstopped)]

/-- R83, R84: two polls, the first leaving an incomplete frame, are one. -/
theorem pollLine_append {x : Line} {first second : List Byte} {s : State} (hshort : (accumulated x first s).length < 5) :
    pollLine x second (pollLine x first s) = pollLine x (first ++ second) s := by
  by_cases hpolls : Polls x s
  · rw [pollLine_incomplete hpolls hshort]
    exact pollLine_of_accumulated hpolls (accumulated_append x first second s)
  · exact pollLine_notPolls_twice first second (first ++ second) hpolls

theorem pollLine_cfg (x : Line) (chunk : List Byte) (s : State) : (pollLine x chunk s).cfg = s.cfg := by
  cases x with
  | H => rw [(handsetEffect_poll chunk s).frame]
  | C => rw [(controllerEffect_poll chunk s).frame]

/-! ### Where the model stops -/

/-- Outcome `o` is the fault that names `c`, and a next state where there is no such counter. -/
def EndsAs (o : Out) : Option Counter → Prop
  | some c => o = .fault (.counterUnderflow c)
  | none => ∃ t, o = .next t

/-- The first part to stop is the one that names the counter; a part that goes on leaves it to the next. -/
theorem EndsAs.andThen {o : Out} {f : State → Out} {c d : Option Counter} (ho : EndsAs o c)
    (hf : ∀ u, o = .next u → EndsAs (f u) d) : EndsAs (andThen o f) (c.or d) := by
  cases c with
  | some c =>
    replace ho : o = .fault (.counterUnderflow c) := ho
    rw [ho]
    rfl
  | none =>
    obtain ⟨u, hu⟩ := ho
    have hd := hf u hu
    rwa [hu, andThen_next, Option.none_or]

/-- The counter that the interval part of a tick asks below 0 (R161). -/
def intervalUnderflow (s : State) : Option Counter := if s.kaState = .waiting ∧ s.kaTimer = 0 then some .kaTimer else none

/-- The counter that a tick of a burst asks below 0: the spacing, or with its last tick the count of writes. -/
def burstUnderflow (spacing writes : Counter) (sp n : Nat) : Option Counter :=
  if sp = 0 then some spacing else if sp = 1 ∧ n = 0 then some writes else none

/-- The counter that the command part of a tick asks below 0 (R145). -/
def cmdUnderflow (s : State) : Option Counter :=
  if s.cmdState = .burst then burstUnderflow .cmdSp .cmdN s.cmdSp s.cmdN else none

/-- The counter that the keep-alive burst's part of a tick asks below 0 (R163). -/
def kaUnderflow (s : State) : Option Counter :=
  if s.kaState = .firingBurst then burstUnderflow .kaSp .kaN s.kaSp s.kaN else none

theorem tickUnderflow_counts {s : State} (h : 2 ≤ s.wdtCnt) :
    tickUnderflow s = ((intervalUnderflow s).or (cmdUnderflow s)).or (kaUnderflow s) := by
  have h0 : s.wdtCnt ≠ 0 := by omega
  have h1 : s.wdtCnt ≠ 1 := by omega
  rw [tickUnderflow, if_neg h0, if_neg h1, intervalUnderflow, cmdUnderflow, kaUnderflow]
  by_cases hcmd : s.cmdState = .burst <;> by_cases hka : s.kaState = .firingBurst <;>
    simp only [hcmd, hka, true_and, false_and, if_true, if_false, burstUnderflow] <;> split_ifs <;> rfl

/-- A down-counter at 0 stops here; otherwise what is done with the rest of it decides. -/
theorem countDown_endsAs {c : Counter} {n : Nat} {f : Nat → Out} {d : Option Counter} (hf : ∀ k, EndsAs (f k) d) :
    EndsAs (countDown c n f) (if n = 0 then some c else d) := by
  cases n with
  | zero => rfl
  | succ k => exact hf k

theorem writeCmdBurst_endsAs (s : State) : EndsAs (writeCmdBurst s) (if s.cmdN = 0 then some .cmdN else none) :=
  countDown_endsAs fun _ => ⟨_, rfl⟩

theorem writeKaBurst_endsAs (s : State) : EndsAs (writeKaBurst s) (if s.kaN = 0 then some .kaN else none) :=
  countDown_endsAs fun _ => ⟨_, rfl⟩

theorem kaIntervalTick_endsAs (s : State) : EndsAs (kaIntervalTick s) (intervalUnderflow s) := by
  by_cases hstop : s.kaState = .waiting ∧ s.kaTimer = 0
  · have hunder : intervalUnderflow s = some .kaTimer := if_pos hstop
    obtain ⟨hwait, h0⟩ := hstop
    rw [hunder, kaIntervalTick, hwait, h0]
    rfl
  · have hunder : intervalUnderflow s = none := if_neg hstop
    rw [hunder]
    exact ⟨_, kaIntervalTick_eq fun hwait => Nat.pos_of_ne_zero fun h0 => hstop ⟨hwait, h0⟩⟩

/-- R145, R163: a tick of a burst counts the spacing down, and at 0 makes a write. -/
theorem burstTick_endsAs {spacing writes : Counter} {sp n : Nat} {write : Out} {wait : Nat → State}
    (hwrite : EndsAs write (if n = 0 then some writes else none)) :
    EndsAs (countDown spacing sp fun k => if k = 0 then write else .next (wait k)) (burstUnderflow spacing writes sp n) := by
  match sp with
  | 0 => rfl
  | 1 => simpa [burstUnderflow] using hwrite
  | k + 2 => exact ⟨wait (k + 1), rfl⟩

theorem cmdTick_endsAs (s : State) : EndsAs (cmdTick s) (cmdUnderflow s) := by
  by_cases hburst : s.cmdState = .burst
  · rw [cmdUnderflow, if_pos hburst, cmdTick, hburst]
    exact burstTick_endsAs (writeCmdBurst_endsAs _)
  · rw [cmdUnderflow, if_neg hburst]
    exact ⟨_, cmdTick_idle hburst⟩

theorem kaBurstTick_endsAs (s : State) : EndsAs (kaBurstTick s) (kaUnderflow s) := by
  by_cases hburst : s.kaState = .firingBurst
  · rw [kaUnderflow, if_pos hburst, kaBurstTick, hburst]
    exact burstTick_endsAs (writeKaBurst_endsAs _)
  · rw [kaUnderflow, if_neg hburst]
    exact ⟨_, kaBurstTick_idle hburst⟩

/-- The interval part leaves the command burst's variables alone. -/
theorem cmdUnderflow_afterInterval (s : State) : cmdUnderflow (afterInterval s) = cmdUnderflow s := by
  rw [afterInterval_frame]
  rfl

theorem afterInterval_firingBurst_iff (s : State) : (afterInterval s).kaState = .firingBurst ↔ s.kaState = .firingBurst := by
  refine ⟨fun h => by_contra fun hs => afterInterval_notBurst hs h, fun h => ?_⟩
  rw [afterInterval, if_neg (by simp [h])]
  exact h

theorem kaUnderflow_afterInterval (s : State) : kaUnderflow (afterInterval s) = kaUnderflow s := by
  have hn : (afterInterval s).kaN = s.kaN := by rw [afterInterval_frame]
  have hsp : (afterInterval s).kaSp = s.kaSp := by rw [afterInterval_frame]
  simp only [kaUnderflow, afterInterval_firingBurst_iff, hn, hsp]

theorem kaUnderflow_cmdTick {s u : State} (e : cmdTick s = .next u) : kaUnderflow u = kaUnderflow s := by
  obtain ⟨hka, hn, hsp, -⟩ := cmdTick_keeps_ka e
  simp only [kaUnderflow, hka, hn, hsp]

/-- R171, R214: the parts of a tick after the watchdog, in their order. -/
theorem tickParts_endsAs (s : State) :
    EndsAs (andThen (andThen (kaIntervalTick s) cmdTick) kaBurstTick)
      (((intervalUnderflow s).or (cmdUnderflow s)).or (kaUnderflow s)) := by
  have hfirst : ∀ v, kaIntervalTick s = .next v → EndsAs (cmdTick v) (cmdUnderflow s) := by
    intro v hv
    obtain ⟨-, rfl⟩ := kaIntervalTick_next_iff.mp hv
    rw [← cmdUnderflow_afterInterval]
    exact cmdTick_endsAs _
  refine ((kaIntervalTick_endsAs s).andThen hfirst).andThen fun u hu => ?_
  obtain ⟨v, hv, hcmd⟩ := andThen_next_iff.mp hu
  obtain ⟨-, rfl⟩ := kaIntervalTick_next_iff.mp hv
  rw [← kaUnderflow_afterInterval, ← kaUnderflow_cmdTick hcmd]
  exact kaBurstTick_endsAs u

/-- A tick stops exactly at the counter `tickUnderflow` names. -/
theorem tickRun_endsAs (s : State) : EndsAs (tickRun s) (tickUnderflow s) := by
  rcases Nat.lt_trichotomy s.wdtCnt 1 with h | h | h
  · have h0 : s.wdtCnt = 0 := by omega
    simp [tickRun, tickUnderflow, h0, EndsAs]
  · simpa [tickUnderflow, h, EndsAs] using ⟨_, tickRun_expires h⟩
  · rw [tickUnderflow_counts h, tickRun_counts h]
    exact tickParts_endsAs { s with wdtCnt := s.wdtCnt - 1 }

theorem exec_tick_run {s : State} (hrun : s.mode = .run) : exec .tick s = tickRun s := by
  simp only [exec, execTick, hrun]

theorem cmdFrameWrite_none_left {sl : Slot} {s : State} (hrun : s.mode = .run) (hburst : s.cmdState = .burst)
    (hslot : s.cmdSlot = sl) (hn : s.cmdN = 0) : cmdFrameWrite sl s = .fault (.counterUnderflow .cmdN) := by
  rw [cmdFrameWrite, if_pos ⟨hrun, hburst, hslot⟩, writeCmdBurst, hn, countDown_zero]

theorem kaFrameWrite_none_left {s : State} (hrun : s.mode = .run) (hburst : s.kaState = .firingBurst) (hn : s.kaN = 0) :
    kaFrameWrite s = .fault (.counterUnderflow .kaN) := by
  rw [kaFrameWrite, if_pos ⟨hrun, hburst⟩, writeKaBurst, hn, countDown_zero]

/-! ### The obligations -/

/-- Settles O34: the frame's writer is one of five, and by the invariant a burst's writer holds the bus (R140). -/
theorem busWritesAreMutuallyExclusive : Obligations.BusWritesAreMutuallyExclusive := by
  intro i s t f hinv e hf
  cases busWrite_of_txCtrl e hf with
  | forwarded free line left => exact .inl ⟨free, line, left⟩
  | cmdStart free grant frame taken => exact .inr (.inl ⟨free, grant, frame, taken⟩)
  | kaStart free grant frame taken => exact .inr (.inr (.inl ⟨free, grant, frame, taken⟩))
  | cmdMore burst frame => exact .inr (.inr (.inr (.inl ⟨hinv.cmdHolds.mpr burst, frame⟩)))
  | kaMore burst frame => exact .inr (.inr (.inr (.inr ⟨hinv.kaHolds.mpr burst, frame⟩)))

/-- Settles O18: both polls fit, and together they are one. -/
theorem chunkingOfAnIncompleteFrame : Obligations.ChunkingOfAnIncompleteFrame := by
  intro x first second s hfits hshort
  rw [List.length_append] at hfits
  have hfirst : first.length ≤ s.cfg.chunkMax := by omega
  have hsecond : second.length ≤ (pollLine x first s).cfg.chunkMax := by rw [pollLine_cfg]; omega
  have hboth : (first ++ second).length ≤ s.cfg.chunkMax := by rwa [List.length_append]
  calc runOps [rxInstr x first, rxInstr x second] s
      = andThen (rxEvent x first s) (runOps [rxInstr x second]) := by rw [runOps_cons, exec_rxInstr]
    _ = andThen (rxEvent x second (pollLine x first s)) (runOps []) := by
        rw [rxEvent_fits hfirst, andThen_next, runOps_cons, exec_rxInstr]
    _ = .next (pollLine x second (pollLine x first s)) := by rw [rxEvent_fits hsecond]; rfl
    _ = exec (rxInstr x (first ++ second)) s := by rw [pollLine_append hshort, exec_rxInstr, rxEvent_fits hboth]

/-- Settles O33: what a line's operations leave alone, and the one writer of the handset line. -/
theorem linesAreIndependent : Obligations.LinesAreIndependent := by
  refine fun i s t e => ⟨fun hline => exec_handset_leaves hline e, fun hline => ?_, fun f => passThrough_of_txHand e⟩
  obtain ⟨hbuf, hrun, hkeys, htimer, hpending⟩ := exec_controller_leaves hline e
  exact ⟨hbuf, hrun, hkeys, htimer, hpending, exec_controller_no_txCtrl hline e⟩

/-- Settles O26: the length test of a poll, the parts of a tick in order, and the count of writes left. -/
theorem namedStops : Obligations.NamedStops := by
  refine ⟨fun x chunk s hlong => ?_, fun s hrun => ?_, fun sl i s hi hrun hburst hslot hn => ?_,
    fun s hrun hburst hn => kaFrameWrite_none_left hrun hburst hn⟩
  · rw [exec_rxInstr, rxEvent_tooLong hlong]
  · have hends := tickRun_endsAs s
    rw [exec_tick_run hrun]
    exact ⟨fun c hc => by rwa [hc] at hends, fun hnone => by rwa [hnone] at hends⟩
  · have hfault := cmdFrameWrite_none_left hrun hburst hslot hn
    rcases hi with ⟨rfl, rfl⟩ | ⟨rfl, rfl⟩ | ⟨rfl, rfl⟩ | ⟨rfl, rfl⟩ <;> exact hfault

end Sys2Proof.Machine

/-! Encoding: what each port's items decode to, reading back what the encoder writes (30_encoding.md R60, R66, R67, R71; log 4,
log 5); and that a well-formed operation always has a next state under the invariant (R94, R180, R214). -/

namespace Sys2Proof.Machine

/-! ### The classes of a controller frame -/

theorem wellFormed_dispFault_iff {c : Params} {p0 d1 d2 ck : Byte} : (Instr.dispFault p0 d1 d2 ck).wellFormed c = true ↔
    startsWithE c.digit p0 = true ∧ Payload.mk p0 d1 d2 ck ≠ zeroPayload ∧ Payload.mk p0 d1 d2 ck ≠ resetPayload := by
  simp [Instr.wellFormed, and_assoc]

theorem wellFormed_dispValue_iff {c : Params} {p0 p1 p2 ck : Byte} : (Instr.dispValue p0 p1 p2 ck).wellFormed c = true ↔
    startsWithE c.digit p0 = false ∧ Payload.mk p0 p1 p2 ck ≠ zeroPayload ∧ Payload.mk p0 p1 p2 ck ≠ resetPayload := by
  simp [Instr.wellFormed, and_assoc]

theorem decodeController_fault {c : Params} {p0 d1 d2 ck : Byte} (h : (Instr.dispFault p0 d1 d2 ck).wellFormed c = true) :
    decodeController c.digit ⟨p0, d1, d2, ck⟩ = .dispFault p0 d1 d2 ck := by
  obtain ⟨startsE, notZero, notReset⟩ := wellFormed_dispFault_iff.mp h
  rw [decodeController, if_neg notZero, if_neg notReset, if_pos startsE]

theorem decodeController_value {c : Params} {p0 p1 p2 ck : Byte} (h : (Instr.dispValue p0 p1 p2 ck).wellFormed c = true) :
    decodeController c.digit ⟨p0, p1, p2, ck⟩ = .dispValue p0 p1 p2 ck := by
  obtain ⟨notE, notZero, notReset⟩ := wellFormed_dispValue_iff.mp h
  rw [decodeController, if_neg notZero, if_neg notReset, if_neg (Bool.eq_false_iff.mp notE)]

/-- R66: the priority of the rows makes every class exclude those before it. -/
theorem decodeController_wellFormed (c : Params) (q : Payload) : (decodeController c.digit q).wellFormed c = true := by
  unfold decodeController
  split_ifs with hzero hreset hE
  · rfl
  · rfl
  · exact wellFormed_dispFault_iff.mpr ⟨hE, hzero, hreset⟩
  · exact wellFormed_dispValue_iff.mpr ⟨Bool.eq_false_iff.mpr hE, hzero, hreset⟩

/-- R66: the class keeps every bit of the frame. -/
theorem encode_decodeController (d : DigitTable) (q : Payload) :
    encode (decodeController d q) = ⟨.controller, [Config.startC, q.q0, q.q1, q.q2, q.q3]⟩ := by
  unfold decodeController
  split_ifs with hzero hreset
  · rw [hzero]; rfl
  · rw [hreset]; rfl
  · rfl
  · rfl

/-! ### What the items of each port decode to -/

theorem decode_handset_ok_iff {d : DigitTable} {bs : List Byte} {i : Instr} : decode d ⟨.handset, bs⟩ = .ok i ↔
    ∃ a b c k, bs = [Config.startH, a, b, c, k] ∧ i = .button a b c k := by
  constructor
  · intro h
    simp only [decode] at h
    split at h
    · split_ifs at h with header
      cases h
      exact ⟨_, _, _, _, by rw [header], rfl⟩
    · cases h
  · rintro ⟨a, b, c, k, rfl, rfl⟩
    rfl

theorem decode_controller_ok_iff {d : DigitTable} {bs : List Byte} {i : Instr} : decode d ⟨.controller, bs⟩ = .ok i ↔
    ∃ q : Payload, bs = [Config.startC, q.q0, q.q1, q.q2, q.q3] ∧ i = decodeController d q := by
  constructor
  · intro h
    simp only [decode] at h
    split at h
    · split_ifs at h with header
      cases h
      exact ⟨⟨_, _, _, _⟩, by rw [header], rfl⟩
    · cases h
  · rintro ⟨q, rfl, rfl⟩
    rfl

/-- R67: a generated frame is one of the five that the encoder writes for the bus. -/
theorem decodeGenerated_ok {f : Frame} {i : Instr} (h : decodeGenerated f = .ok i) :
    encode i = ⟨.bus, f.bytes⟩ ∧ ∀ c : Params, i.wellFormed c = true := by
  unfold decodeGenerated at h
  split_ifs at h
  all_goals
    cases h
    subst f
    exact ⟨rfl, fun _ => rfl⟩

theorem decode_bus_ok {d : DigitTable} {bs : List Byte} {i : Instr} (h : decode d ⟨.bus, bs⟩ = .ok i) :
    encode i = ⟨.bus, bs⟩ ∧ ∀ c : Params, i.wellFormed c = true := by
  simp only [decode] at h
  split at h
  · exact decodeGenerated_ok h
  · cases h

theorem decode_digit_ok_iff {d : DigitTable} {bs : List Byte} {i : Instr} : decode d ⟨.digit, bs⟩ = .ok i ↔
    ∃ b, bs = [b] ∧ i = .digitByte b := by
  constructor
  · intro h
    simp only [decode] at h
    split at h
    · cases h
      exact ⟨_, rfl, rfl⟩
    · cases h
  · rintro ⟨b, rfl, rfl⟩
    rfl

/-! ### Lines of text -/

/-- A line with byte operands is read back, whichever operation its first word makes of them. -/
theorem decode_byteLine {d : DigitTable} {kw : List Byte} {f : List Byte → Option Instr} {bs : List Byte} {i : Instr}
    (hkw : PlainWord kw) (hword : ∀ args, decodeWord kw args = byteOperands args f) (hf : f bs = some i) :
    decode d (scriptItem (kw :: bs.map hexByte)) = .ok i := by
  have hargs : ∀ w ∈ bs.map hexByte, PlainWord w := by
    intro w hw
    obtain ⟨b, -, rfl⟩ := List.mem_map.mp hw
    exact plainWord_hexByte b
  rw [decode_scriptItem d kw _ hkw hargs, hword, byteOperands, parseBytes_map_hexByte]
  simp only [hf]

/-- A line with one number is read back, by whichever reader its word uses. -/
theorem decode_numberLine {α : Type} {d : DigitTable} {kw : List Byte} {read : List Byte → Option α} {f : α → Instr} {n : Nat}
    {a : α} (hkw : PlainWord kw) (hword : ∀ args, decodeWord kw args = oneNumber read args f)
    (hread : read (decWord n) = some a) : decode d (scriptItem [kw, decWord n]) = .ok (f a) := by
  rw [decode_scriptItem d kw _ hkw (List.forall_mem_singleton.mpr (plainWord_decWord n)), hword]
  simp only [oneNumber, hread]

theorem decode_bareLine {d : DigitTable} {kw : List Byte} {i : Instr} (hkw : PlainWord kw)
    (hword : decodeWord kw [] = .ok i) : decode d (scriptItem [kw]) = .ok i := by
  rw [decode_scriptItem d kw [] hkw (List.forall_mem_nil _), hword]

theorem decode_wordLine {d : DigitTable} {kw w : List Byte} {i : Instr} (hkw : PlainWord kw) (hw : PlainWord w)
    (hword : decodeWord kw [w] = .ok i) : decode d (scriptItem [kw, w]) = .ok i := by
  rw [decode_scriptItem d kw [w] hkw (List.forall_mem_singleton.mpr hw), hword]

/-! ### The encoding's obligations -/

/-- Settles O1, by operation: the frames by their class (R66, R67), the lines by the form of their operands (R71). -/
theorem decodeOfEncodeIsIdentity : Obligations.DecodeOfEncodeIsIdentity := by
  intro c i hwf
  cases i with
  | dispNoheight | dispReset | button | digitByte => rfl
  | cmdSlot1 | cmdSlot2 | cmdSlot3 | cmdSlot4 | keepalive => rfl
  | dispFault p0 d1 d2 ck =>
    exact decode_controller_ok_iff.mpr ⟨⟨p0, d1, d2, ck⟩, rfl, (decodeController_fault hwf).symm⟩
  | dispValue p0 p1 p2 ck =>
    exact decode_controller_ok_iff.mpr ⟨⟨p0, p1, p2, ck⟩, rfl, (decodeController_value hwf).symm⟩
  | rxH chunk => exact decode_byteLine (f := fun bs => some (.rxH bs)) (.of_check rfl) (fun _ => rfl) rfl
  | rxC chunk => exact decode_byteLine (f := fun bs => some (.rxC bs)) (.of_check rfl) (fun _ => rfl) rfl
  | checksum a b e => exact decode_byteLine (bs := [a, b, e]) (.of_check rfl) (fun _ => rfl) rfl
  | decodeButton a b e k | decodeDisplay a b e k =>
    exact decode_byteLine (bs := [a, b, e, k]) (.of_check rfl) (fun _ => rfl) rfl
  | moveTo slot => exact decode_numberLine (.of_check rfl) (fun _ => rfl) (parseDecByte_decWord slot)
  | encodeCommand slot => exact decode_numberLine (.of_check rfl) (fun _ => rfl) (parseDec_decWord slot)
  | setRemoteEnabled b => cases b <;> exact decode_wordLine (.of_check rfl) (.of_check rfl) rfl
  | grantCmd | grantKa => exact decode_wordLine (.of_check rfl) (.of_check rfl) rfl
  | rxerrH | rxerrC | tick | currentPosition | cancel | reset | encodeKeepalive | signalActivity | wdtFeed =>
    exact decode_bareLine (.of_check rfl) rfl

/-- Settles O2, port by port. -/
theorem frameItemsRoundTrip : Obligations.FrameItemsRoundTrip := by
  rintro c ⟨port, bytes⟩ i hport h
  cases port with
  | handset =>
    obtain ⟨a, b, e, k, rfl, rfl⟩ := decode_handset_ok_iff.mp h
    exact ⟨rfl, rfl⟩
  | controller =>
    obtain ⟨q, rfl, rfl⟩ := decode_controller_ok_iff.mp h
    exact ⟨encode_decodeController c.digit q, decodeController_wellFormed c q⟩
  | bus =>
    obtain ⟨hencode, hwf⟩ := decode_bus_ok h
    exact ⟨hencode, hwf c⟩
  | digit =>
    obtain ⟨b, rfl, rfl⟩ := decode_digit_ok_iff.mp h
    exact ⟨rfl, rfl⟩
  | script => exact absurd rfl hport

/-- A table word whose item the encoder writes for an operation decodes to it (log 5). -/
theorem decodeTableWord_of_encode {nbits w : Nat} {i : Instr} (hword : wordItem nbits w = encode i)
    (hwf : i.wellFormed paramsT = true) : decodeTableWord nbits w = some i := by
  rw [decodeTableWord_eq_some_iff, hword]
  exact decodeOfEncodeIsIdentity paramsT i hwf

/-- Settles O3: each word's item is the encoding of its row, which is well formed under the default digit table. -/
theorem specWordsDecode : Obligations.SpecWordsDecode :=
  ⟨decodeTableWord_of_encode rfl rfl, decodeTableWord_of_encode rfl rfl, decodeTableWord_of_encode rfl rfl,
    decodeTableWord_of_encode rfl rfl, decodeTableWord_of_encode rfl rfl, decodeTableWord_of_encode rfl rfl,
    decodeTableWord_of_encode rfl rfl, decodeTableWord_of_encode rfl rfl,
    decode_handset_ok_iff.mpr ⟨0x00#8, 0x02#8, 0xFD#8, 0xFF#8, rfl, rfl⟩⟩

/-! ### Operations that answer a next state -/

/-- R214: a poll can hold at least one byte. -/
theorem one_le_chunkMax {c : Params} (h : c.ok = true) : 1 ≤ c.chunkMax := by
  obtain ⟨-, -, -, hchunk, -⟩ := (params_ok_iff c).mp h
  exact hchunk

/-- R40: one byte fits every poll, so bytes delivered one by one are never refused. -/
theorem serialPolls_next (x : Line) (bs : List Byte) {s : State} (hc : 1 ≤ s.cfg.chunkMax) :
    ∃ t, serialPolls x bs s = .next t := by
  induction bs generalizing s with
  | nil => exact ⟨s, rfl⟩
  | cons b rest ih =>
    rw [serialPolls, rxEvent_fits (x := x) (chunk := [b]) hc, andThen_next]
    exact ih (by rwa [pollLine_cfg])

theorem rxEvent_next {x : Line} {chunk : List Byte} {s : State} (h : chunk.length ≤ s.cfg.chunkMax) :
    ∃ t, rxEvent x chunk s = .next t := ⟨_, rxEvent_fits h⟩

/-- A frame arrives in one poll where five bytes fit, otherwise byte by byte (log 6). -/
theorem frameArrives_next (x : Line) (f : Frame) {s : State} (hc : 1 ≤ s.cfg.chunkMax) :
    ∃ t, frameArrives x f s = .next t := by
  unfold frameArrives
  split
  · rename_i hfits
    exact rxEvent_next hfits
  · exact serialPolls_next x f.bytes hc

/-- R145: in a command burst there is a write still to make. -/
theorem cmdFrameWrite_next (sl : Slot) {s : State} (h : Inv s) : ∃ t, cmdFrameWrite sl s = .next t := by
  unfold cmdFrameWrite
  split
  · rename_i holds
    obtain ⟨-, hburst, -⟩ := holds
    obtain ⟨hn, -⟩ := h.cmdCounts hburst
    rw [writeCmdBurst, countDown_pos hn]
    exact ⟨_, rfl⟩
  · exact ⟨s, rfl⟩

/-- R163: in a keep-alive burst there is a write still to make. -/
theorem kaFrameWrite_next {s : State} (h : Inv s) : ∃ t, kaFrameWrite s = .next t := by
  unfold kaFrameWrite
  split
  · rename_i holds
    obtain ⟨-, hburst⟩ := holds
    obtain ⟨hn, -⟩ := h.kaCounts hburst
    rw [writeKaBurst, countDown_pos hn]
    exact ⟨_, rfl⟩
  · exact ⟨s, rfl⟩

/-- R145, R163: with a tick still to wait and a write still to make, a burst's tick asks no counter below 0. -/
theorem burstUnderflow_eq_none {spacing writes : Counter} {sp n : Nat} (hsp : 1 ≤ sp) (hn : 1 ≤ n) :
    burstUnderflow spacing writes sp n = none := by
  rw [burstUnderflow, if_neg (by omega), if_neg (by omega)]

theorem intervalUnderflow_of_inv {s : State} (h : Inv s) : intervalUnderflow s = none :=
  if_neg fun ⟨hwait, hzero⟩ => absurd (h.timerCounts hwait) (by omega)

theorem cmdUnderflow_of_inv {s : State} (h : Inv s) : cmdUnderflow s = none := by
  unfold cmdUnderflow
  split
  · rename_i hburst
    obtain ⟨hn, hsp⟩ := h.cmdCounts hburst
    exact burstUnderflow_eq_none hsp hn
  · rfl

theorem kaUnderflow_of_inv {s : State} (h : Inv s) : kaUnderflow s = none := by
  unfold kaUnderflow
  split
  · rename_i hburst
    obtain ⟨hn, hsp⟩ := h.kaCounts hburst
    exact burstUnderflow_eq_none hsp hn
  · rfl

/-- R214: under the invariant a tick asks no down-counter below 0. -/
theorem tickUnderflow_of_inv {s : State} (h : Inv s) : tickUnderflow s = none := by
  obtain ⟨hpos, -⟩ := h.wdt
  by_cases hexpires : s.wdtCnt = 1
  · simp [tickUnderflow, hexpires]
  · rw [tickUnderflow_counts (by omega), intervalUnderflow_of_inv h, cmdUnderflow_of_inv h, kaUnderflow_of_inv h]
    rfl

theorem execTick_next {s : State} (h : Inv s) : ∃ t, execTick s = .next t := by
  unfold execTick
  split
  · have hends := tickRun_endsAs s
    rwa [tickUnderflow_of_inv h] at hends
  · exact ⟨_, rfl⟩

theorem execMoveTo_next (slot : Byte) (s : State) : ∃ t, execMoveTo slot s = .next t := by
  unfold execMoveTo
  split
  · exact ⟨_, rfl⟩
  · split
    · exact ⟨_, rfl⟩
    · exact ⟨_, rfl⟩
    · split
      · split <;> exact ⟨_, rfl⟩
      · exact ⟨_, rfl⟩

theorem execSetRemoteEnabled_next (b : Bool) (s : State) : ∃ t, execSetRemoteEnabled b s = .next t := by
  unfold execSetRemoteEnabled
  split <;> exact ⟨_, rfl⟩

theorem execCancel_next (s : State) : ∃ t, execCancel s = .next t := by
  unfold execCancel
  split <;> exact ⟨_, rfl⟩

theorem execEncodeCommand_next (slot : Nat) (s : State) : ∃ t, execEncodeCommand slot s = .next t := by
  unfold execEncodeCommand
  split <;> exact ⟨_, rfl⟩

/-- Settles O49, by operation: a poll's chunk fits by well-formedness, a frame by R214, and the invariant keeps every
down-counter that is asked above 0; the other operations have no path that stops. -/
theorem everyOperationCompletes : Obligations.EveryOperationCompletes := by
  intro i s h hwf
  have hchunk := one_le_chunkMax h.params
  cases i with
  | dispNoheight | dispReset | dispFault | dispValue => exact frameArrives_next .C _ hchunk
  | button => exact frameArrives_next .H _ hchunk
  | rxH => exact rxEvent_next (of_decide_eq_true hwf)
  | rxC => exact rxEvent_next (of_decide_eq_true hwf)
  | cmdSlot1 => exact cmdFrameWrite_next .s1 h
  | cmdSlot2 => exact cmdFrameWrite_next .s2 h
  | cmdSlot3 => exact cmdFrameWrite_next .s3 h
  | cmdSlot4 => exact cmdFrameWrite_next .s4 h
  | keepalive => exact kaFrameWrite_next h
  | tick => exact execTick_next h
  | moveTo slot => exact execMoveTo_next slot s
  | setRemoteEnabled b => exact execSetRemoteEnabled_next b s
  | cancel => exact execCancel_next s
  | encodeCommand slot => exact execEncodeCommand_next slot s
  | rxerrH | rxerrC | currentPosition | grantCmd | grantKa | reset => exact ⟨_, rfl⟩
  | checksum | digitByte | decodeButton | decodeDisplay | encodeKeepalive | signalActivity | wdtFeed => exact ⟨_, rfl⟩

end Sys2Proof.Machine

/-! The frame reader: a poll that leaves an incomplete frame, the three classes of a candidate, a read error and a cancelled
loop (40_frame_reader.md R81 to R92), and a frame row as the arrival of its five bytes (log 6). -/

namespace Sys2Proof.Machine

/-! ### Reports and the state of a loop -/

/-- R191: a report only lengthens the trace, here of a state whose trace is still that of `s`. -/
theorem raiseDiag_of_trace {s t : State} (d : Diag) (htrace : t.trace = s.trace) :
    raiseDiag d t = { t with trace := s.trace ++ [.diag d] } := by
  rw [← htrace]
  rfl

theorem raiseDiag_setBuf (d : Diag) (x : Line) (b : List Byte) (s : State) :
    raiseDiag d (setBuf x b s) = { setBuf x b s with trace := s.trace ++ [.diag d] } :=
  raiseDiag_of_trace d (setBuf_trace x b s)

/-- R81: the state in which a cancelled loop ends. -/
theorem raiseDiag_setRun_setBuf (d : Diag) (x : Line) (r : RunState) (b : List Byte) (s : State) :
    raiseDiag d (setRun x r (setBuf x b s)) = { setRun x r (setBuf x b s) with trace := s.trace ++ [.diag d] } :=
  raiseDiag_of_trace d ((setRun_trace x r _).trans (setBuf_trace x b s))

/-- R81, R190: a loop is off, finds the cancellation, or polls. -/
theorem loop_cases (x : Line) (s : State) :
    (s.mode = .diag ∨ runOf x s = .stopped) ∨ (s.mode = .run ∧ runOf x s = .running ∧ s.cancel = true) ∨ Polls x s := by
  cases hmode : s.mode with
  | diag => exact .inl (.inl rfl)
  | run =>
    cases hrun : runOf x s with
    | stopped => exact .inl (.inr rfl)
    | running =>
      cases hcancel : s.cancel with
      | true => exact .inr (.inl ⟨rfl, rfl, rfl⟩)
      | false => exact .inr (.inr ⟨hmode, hrun, hcancel⟩)

/-! ### Polls and read errors as operations -/

theorem exec_rxInstr_fits {x : Line} {chunk : List Byte} {s : State} (hfits : chunk.length ≤ s.cfg.chunkMax) :
    exec (rxInstr x chunk) s = .next (pollLine x chunk s) := by rw [exec_rxInstr, rxEvent_fits hfits]

theorem exec_rxerrInstr (x : Line) (s : State) : exec (rxerrInstr x) s = .next (errorLine x s) := by cases x <;> rfl

/-- A poll depends on its chunk only through what has accumulated at its end, in every state. -/
theorem pollLine_congr {x : Line} {chunk chunk' : List Byte} {s : State}
    (hacc : accumulated x chunk s = accumulated x chunk' s) : pollLine x chunk s = pollLine x chunk' s := by
  simp only [pollLine, readChunk, takeIn_accumulated, hacc]

/-- R82: at an empty buffer nothing is kept of the bytes before the first start byte. -/
theorem accumulated_strays {x : Line} {strays chunk : List Byte} {s : State} (hempty : bufOf x s = [])
    (hstrays : ∀ b ∈ strays, b ≠ x.start) : accumulated x (strays ++ chunk) s = accumulated x chunk s := by
  rw [accumulated, accumulated, if_pos hempty, if_pos hempty]
  exact List.dropWhile_append_of_pos fun b hb => bne_iff_ne.mpr (hstrays b hb)

/-- R84, R89: a poll that completes a candidate hands its class to the pump, and the buffer is emptied. -/
theorem exec_rxInstr_complete {x : Line} {chunk : List Byte} {s : State} (hpolls : Polls x s)
    (hfits : chunk.length ≤ s.cfg.chunkMax) (hfull : 5 ≤ (accumulated x chunk s).length) :
    exec (rxInstr x chunk) s =
      .next (pump x (classify (candidate x.start (accumulated x chunk s))) (setBuf x [] s)) := by
  rw [exec_rxInstr_fits hfits, pollLine_complete hpolls hfull]

/-! ### The classes of a candidate -/

theorem classify_bytes (f : Frame) : classify f.bytes = .ok f := rfl

/-- R87: more than five bytes are cut to a frame, which is reported with the verdict on its checksum. -/
theorem classify_long (f : Frame) {extra : List Byte} (hextra : extra ≠ []) : classify (f.bytes ++ extra) =
    .long f (decide (f.ck.toNat = (f.p0.toNat + f.p1.toNat + f.p2.toNat) % 256)) := by
  obtain ⟨b, rest, rfl⟩ := List.exists_cons_of_ne_nil hextra
  exact congrArg (ReaderOutcome.long f) (ckValid_eq f.payload)

/-- R88: fewer than five bytes are short. -/
theorem classify_short {c : List Byte} (hshort : c.length < 5) : classify c = .short c := by
  unfold classify
  split
  · simp at hshort
  · simp only [List.length_cons] at hshort
    omega
  · rfl

/-- R87: a long outcome comes of more than five bytes. -/
theorem length_of_classify_long {c : List Byte} {f : Frame} {good : Bool} (h : classify c = .long f good) :
    6 ≤ c.length := by
  unfold classify at h
  split at h
  · cases h
  · simp
  · cases h

/-- R85: a frame without an inner start byte, and what follows it up to the next start byte, is one candidate. -/
theorem candidate_frame {x : Line} {f : Frame} {extra rest : List Byte} (hf : CleanFrame x f)
    (hextra : ∀ b ∈ extra, b ≠ x.start) (hrest : EndsCandidate x rest) :
    candidate x.start (f.bytes ++ extra ++ rest) = f.bytes ++ extra := by
  obtain ⟨-, h0, h1, h2, h3⟩ := hf
  refine candidate_eq x f.header ([f.p0, f.p1, f.p2, f.ck] ++ extra) rest (fun b hb => ?_) hrest
  rcases List.mem_append.mp hb with hframe | hmore
  · simp only [List.mem_cons, List.not_mem_nil, or_false] at hframe
    rcases hframe with rfl | rfl | rfl | rfl <;> assumption
  · exact hextra b hmore

/-! ### The rows of the frame classes -/

/-- The frame of line X with decoder argument `q` (R60, R112). -/
def framed (x : Line) (q : Payload) : Frame := ⟨x.start, q.q0, q.q1, q.q2, q.q3⟩

theorem framed_payload {x : Line} {f : Frame} (hheader : f.header = x.start) : framed x f.payload = f := by
  rw [framed, ← hheader]
  rfl

theorem exec_button (q : Payload) (s : State) :
    exec (.button q.q0 q.q1 q.q2 q.q3) s = frameArrives .H (framed .H q) s := rfl

/-- R66: whichever class a controller frame has, its row is the arrival of its bytes (log 6). -/
theorem exec_decodeController (d : DigitTable) (q : Payload) (s : State) :
    exec (decodeController d q) s = frameArrives .C (framed .C q) s := by
  unfold decodeController
  split_ifs with hzero hreset
  · rw [hzero]; rfl
  · rw [hreset]; rfl
  · rfl
  · rfl

/-- Where a poll can hold it, a frame's arrival is the poll of its five bytes (log 6). -/
theorem frameArrives_fits {x : Line} {f : Frame} {s : State} (hfits : 5 ≤ s.cfg.chunkMax) :
    frameArrives x f s = exec (rxInstr x f.bytes) s := by
  rw [exec_rxInstr]
  exact if_pos hfits

/-- R81, R190: bytes that arrive one by one at a loop that is off change nothing. -/
theorem serialPolls_off {x : Line} {s : State} (bs : List Byte) (hfits : 1 ≤ s.cfg.chunkMax)
    (hoff : s.mode = .diag ∨ runOf x s = .stopped) : serialPolls x bs s = .next s := by
  induction bs with
  | nil => rfl
  | cons b rest ih => rw [serialPolls, rxEvent_fits (x := x) (chunk := [b]) hfits, pollLine_off hoff, andThen_next, ih]

/-- R81, R190: a frame that arrives at a loop that is off changes nothing. -/
theorem frameArrives_off {x : Line} {f : Frame} {s : State} (hfits : 1 ≤ s.cfg.chunkMax)
    (hoff : s.mode = .diag ∨ runOf x s = .stopped) : frameArrives x f s = .next s := by
  unfold frameArrives
  split
  · rename_i hframe
    rw [rxEvent_fits (x := x) (chunk := f.bytes) hframe, pollLine_off hoff]
  · exact serialPolls_off f.bytes hfits hoff

/-- R85, R88: a frame that holds a start byte after its header is reported short by a hunting reader. -/
theorem frameArrives_short {x : Line} {q : Payload} {s : State} (hhunt : Hunting x s)
    (hshort : ([q.q0, q.q1, q.q2, q.q3].takeWhile fun b => b != x.start).length < 4) :
    frameArrives x (framed x q) s =
      .next (raiseDiag (.framingShort x (x.start :: [q.q0, q.q1, q.q2, q.q3].takeWhile fun b => b != x.start)) s) := by
  have hcandidate : candidate x.start (framed x q).bytes =
      x.start :: [q.q0, q.q1, q.q2, q.q3].takeWhile fun b => b != x.start := rfl
  rw [frameArrives_hunting hhunt rfl, hcandidate, classify_short (by rw [List.length_cons]; omega)]
  rfl

/-- R85, R86, R89: a poll whose candidate is exact is the arrival of that frame at an emptied buffer. -/
theorem exec_rxInstr_exact {x : Line} {chunk rest : List Byte} {f : Frame} {s : State}
    (hfits : chunk.length ≤ s.cfg.chunkMax) (hone : 1 ≤ s.cfg.chunkMax) (hpolls : Polls x s) (hf : CleanFrame x f)
    (hacc : accumulated x chunk s = f.bytes ++ rest) (hrest : EndsCandidate x rest) :
    exec (rxInstr x chunk) s = frameArrives x f (setBuf x [] s) := by
  have hfull : 5 ≤ (accumulated x chunk s).length := by simp [hacc, Frame.bytes]
  have hcandidate : candidate x.start (accumulated x chunk s) = f.bytes := by
    simpa [hacc] using candidate_frame (extra := []) hf (by simp) hrest
  have hhunt : Hunting x (setBuf x [] s) :=
    ⟨polls_setBuf [] hpolls, bufOf_setBuf_same x [] s, by rwa [setBuf_cfg]⟩
  rw [exec_rxInstr_complete hpolls hfits hfull, hcandidate, classify_bytes, frameArrives_clean hhunt hf]

/-! ### What is not reported -/

/-- From `s` to `t` the trace grows, and by no report of a long candidate. -/
def NoLongReport (s t : State) : Prop :=
  ∃ out, t.trace = s.trace ++ out ∧ ∀ y f good, Output.diag (.framingLong y f good) ∉ out

theorem NoLongReport.of_same_trace {s t : State} (htrace : t.trace = s.trace) : NoLongReport s t :=
  ⟨[], by simpa using htrace, by simp⟩

theorem NoLongReport.of_output {s t : State} {o : Output} (htrace : t.trace = s.trace ++ [o])
    (hno : ∀ y f good, o ≠ .diag (.framingLong y f good)) : NoLongReport s t :=
  ⟨[o], htrace, fun y f good hmem => hno y f good (List.mem_singleton.mp hmem).symm⟩

theorem NoLongReport.trans {s t u : State} (hst : NoLongReport s t) (htu : NoLongReport t u) : NoLongReport s u := by
  obtain ⟨out, hout, hno⟩ := hst
  obtain ⟨out', hout', hno'⟩ := htu
  refine ⟨out ++ out', by rw [hout', hout, List.append_assoc], fun y f good hmem => ?_⟩
  rcases List.mem_append.mp hmem with h | h
  · exact hno y f good h
  · exact hno' y f good h

theorem NoLongReport.newOutputs {s t : State} (h : NoLongReport s t) (y : Line) (f : Frame) (good : Bool) :
    Output.diag (.framingLong y f good) ∉ newOutputs s t := by
  obtain ⟨out, hout, hno⟩ := h
  rw [newOutputs_of_append hout]
  exact hno y f good

theorem noLongReport_setBuf (x : Line) (b : List Byte) (s : State) : NoLongReport s (setBuf x b s) :=
  .of_same_trace (setBuf_trace x b s)

theorem noLongReport_pumpHOk (f : Frame) (s : State) : NoLongReport s (pumpHOk f s) := by
  rw [pumpHOk_eq]
  refine ⟨_, rfl, fun y g good hmem => ?_⟩
  rcases List.mem_append.mp hmem with hmismatch | hmem
  · split at hmismatch <;> simp at hmismatch
  · rcases List.mem_append.mp hmem with hkeys | hforward
    · split at hkeys <;> simp at hkeys
    · split at hforward <;> simp at hforward

/-- R137, R139: what pump C reports for a decode result speaks of no candidate. -/
theorem noLongReport_actOnDisplay (f : Frame) (r : DisplayResult) (s : State) : NoLongReport s (actOnDisplay f r s) := by
  cases r with
  | noHeight => exact .of_same_trace rfl
  | reset => exact .of_output rfl (by simp)
  | fault code bad => exact .of_output rfl (by simp)
  | formatError why => exact .of_output rfl (by simp)
  | value m e bad =>
    cases bad with
    | false => exact .of_same_trace rfl
    | true => exact .of_output rfl (by simp)

theorem noLongReport_passThrough (f : Frame) (s : State) : NoLongReport s (passThrough f s) := by
  unfold passThrough
  split
  · exact .of_output rfl (by simp)
  · exact .of_same_trace rfl

theorem noLongReport_pumpCOk (f : Frame) (s : State) : NoLongReport s (pumpCOk f s) :=
  have hfeed : NoLongReport s (feed s) := .of_same_trace rfl
  (hfeed.trans (noLongReport_actOnDisplay f _ _)).trans (noLongReport_passThrough f _)

/-- R130, R136: a pump reports a long candidate only where its reader's outcome is one. -/
theorem noLongReport_pump (x : Line) {o : ReaderOutcome} (s : State) (ho : ∀ f good, o ≠ .long f good) :
    NoLongReport s (pump x o s) := by
  cases o with
  | ok f =>
    cases x with
    | H => exact noLongReport_pumpHOk f s
    | C => exact noLongReport_pumpCOk f s
  | long f good => exact absurd rfl (ho f good)
  | short b => exact .of_output rfl (by simp)
  | readError b => exact .of_output rfl (by simp)
  | canceled => exact .of_output rfl (by simp)

theorem accumulated_length_le (x : Line) (chunk : List Byte) (s : State) :
    (accumulated x chunk s).length ≤ (bufOf x s).length + chunk.length := by
  unfold accumulated
  split
  · exact (List.dropWhile_suffix _).length_le.trans (Nat.le_add_left _ _)
  · exact List.length_append.le

/-- R87: a poll at whose end at most five bytes have accumulated reports no long candidate. -/
theorem noLongReport_pollLine {x : Line} {chunk : List Byte} {s : State} (hlen : (accumulated x chunk s).length ≤ 5) :
    NoLongReport s (pollLine x chunk s) := by
  rcases loop_cases x s with hoff | ⟨hmode, hrun, hcancel⟩ | hpolls
  · rw [pollLine_off hoff]
    exact .of_same_trace rfl
  · rw [pollLine_cancelled hmode hrun hcancel, raiseDiag_setRun_setBuf]
    exact .of_output rfl (by simp)
  · by_cases hshort : (accumulated x chunk s).length < 5
    · rw [pollLine_incomplete hpolls hshort]
      exact noLongReport_setBuf x _ s
    · rw [pollLine_complete hpolls (Nat.not_lt.mp hshort)]
      refine (noLongReport_setBuf x [] s).trans (noLongReport_pump x _ fun f good hlong => ?_)
      have hsix := length_of_classify_long hlong
      have hle := candidate_length_le x.start (accumulated x chunk s)
      omega

/-! ### The obligations -/

/-- Settles O19: an exact candidate and the row of its class are one arrival. -/
theorem exactCandidateIsItsFrame : Obligations.ExactCandidateIsItsFrame := by
  refine fun chunk s f rest hfits hone => ⟨fun hpolls hf hacc hrest => ?_, fun hpolls hf hacc hrest => ?_⟩
  · calc exec (.rxH chunk) s
        = frameArrives .H f { s with bufH := [] } := exec_rxInstr_exact (x := .H) hfits hone hpolls hf hacc hrest
      _ = exec (.button f.p0 f.p1 f.p2 f.ck) { s with bufH := [] } := by
          rw [← framed_payload hf.1, ← exec_button]
          rfl
  · calc exec (.rxC chunk) s
        = frameArrives .C f { s with bufC := [] } := exec_rxInstr_exact (x := .C) hfits hone hpolls hf hacc hrest
      _ = exec (decodeController s.cfg.digit f.payload) { s with bufC := [] } := by
          rw [exec_decodeController, framed_payload hf.1]

/-- Settles O25: a row is its frame's arrival, in one poll, at a hunting reader, or at a loop that is off. -/
theorem frameOperationForms : Obligations.FrameOperationForms := by
  intro x q i s hrow held
  have harrives : exec i s = frameArrives x (framed x q) s := by
    rcases hrow with ⟨rfl, rfl⟩ | ⟨rfl, rfl⟩
    · exact exec_button q s
    · exact exec_decodeController s.cfg.digit q s
  rw [harrives]
  exact ⟨fun hfits => frameArrives_fits hfits, fun hhunt hshort => frameArrives_short hhunt hshort,
    fun hone hoff => frameArrives_off hone hoff⟩

/-- Settles O22: one byte more than the reader can leave makes at most five. -/
theorem byteSerialIsNeverLong : Obligations.ByteSerialIsNeverLong := by
  intro x b s t hbuf e y f good
  rw [exec_rxInstr] at e
  obtain ⟨-, rfl⟩ := rxEvent_next_iff.mp e
  obtain ⟨hfour, -⟩ := hbuf
  have hlen := accumulated_length_le x [b] s
  exact (noLongReport_pollLine (hlen.trans (Nat.succ_le_succ hfour))).newOutputs y f good

/-- Settles O16: the chunk fits, and the poll leaves an incomplete frame. -/
theorem incompletePollKeepsBytes : Obligations.IncompletePollKeepsBytes := by
  intro x chunk s hpolls hfits hshort
  rw [exec_rxInstr_fits hfits, pollLine_incomplete hpolls hshort]

/-- Settles O17: both chunks fit, and accumulate to the same bytes. -/
theorem straysAreDiscarded : Obligations.StraysAreDiscarded := by
  intro x strays chunk s hempty hstrays hfits
  have hchunk : chunk.length ≤ s.cfg.chunkMax := by
    rw [List.length_append] at hfits
    omega
  rw [exec_rxInstr_fits hfits, exec_rxInstr_fits hchunk, pollLine_congr (accumulated_strays hempty hstrays)]

/-- Settles O20: the candidate is the frame with its extra bytes, and a pump only reports it. -/
theorem longCandidateReported : Obligations.LongCandidateReported := by
  intro x chunk s f extra rest hpolls hfits hf hextra hclean hacc hrest
  have hfull : 5 ≤ (accumulated x chunk s).length := by
    simp [hacc, Frame.bytes]
  rw [exec_rxInstr_complete hpolls hfits hfull, hacc, candidate_frame hf hclean hrest, classify_long f hextra]
  exact congrArg Host.Outcome.next (raiseDiag_setBuf _ x [] s)

/-- Settles O21: the candidate is what stands before the inner start byte, and a pump only reports it. -/
theorem shortCandidateReported : Obligations.ShortCandidateReported := by
  intro x chunk s tail rest hpolls hfits htail hlen hacc hfull
  have hcandidate : candidate x.start (accumulated x chunk s) = x.start :: tail := by
    rw [hacc]
    exact candidate_eq x x.start tail (x.start :: rest) htail (.inr rfl)
  rw [exec_rxInstr_complete hpolls hfits hfull, hcandidate, classify_short (by rw [List.length_cons]; omega)]
  exact congrArg Host.Outcome.next (raiseDiag_setBuf _ x [] s)

/-- Settles O23: a read error at a loop that polls, that finds the cancellation, and that is off. -/
theorem readErrorEmptiesBuffer : Obligations.ReadErrorEmptiesBuffer := by
  intro x s
  rw [exec_rxerrInstr]
  refine ⟨fun hpolls => ?_, fun hmode hrun hcancel => ?_, fun hoff => ?_⟩
  · rw [errorLine_polls hpolls, raiseDiag_setBuf]
  · rw [errorLine_cancelled hmode hrun hcancel, raiseDiag_setRun_setBuf]
  · rw [errorLine_off hoff.symm]

/-- Settles O24: a poll and a read error treat the cancellation, and a stopped loop, alike. -/
theorem cancelledPollStopsLoop : Obligations.CancelledPollStopsLoop := by
  intro x i s hi
  rcases hi with ⟨chunk, rfl, hfits⟩ | rfl
  · rw [exec_rxInstr_fits hfits]
    refine ⟨fun hmode hrun hcancel => ?_, fun hstopped => ?_⟩
    · rw [pollLine_cancelled hmode hrun hcancel, raiseDiag_setRun_setBuf]
    · rw [pollLine_off (.inr hstopped)]
  · obtain ⟨-, hcancelled, hoff⟩ := readErrorEmptiesBuffer x s
    exact ⟨hcancelled, fun hstopped => hoff (.inl hstopped)⟩

end Sys2Proof.Machine

/-! The decoder: what a digit byte reads as, the branches of `DECODE_DISPLAY` and its scan for a second point, the results of the pure
functions (41_protocol_decoder.md R100 to R113, R117, R122, R123), and pump C on a fault frame (R107, R136 to R139). -/

namespace Sys2Proof.Machine

/-! ### Checksum and keys -/

/-- R100: nothing is lost before the reduction modulo 256. -/
theorem checksum_toNat (a b c : Byte) : (checksum a b c).toNat = (a.toNat + b.toNat + c.toNat) % 256 :=
  BitVec.toNat_ofNat _ 8

theorem ckValid_iff (q : Payload) :
    ckValid q = true ↔ q.q3.toNat = (q.q0.toNat + q.q1.toNat + q.q2.toNat) % 256 := by
  rw [ckValid_eq, decide_eq_true_iff]

theorem ckBad_iff (q : Payload) : ckBad q = true ↔ q.q3.toNat ≠ (q.q0.toNat + q.q1.toNat + q.q2.toNat) % 256 := by
  rw [ckBad_eq, decide_eq_true_iff]

theorem noneBit_iff (keys : KeySet) : noneBit keys = true ↔ keys = 0#7 := beq_iff_eq

/-- R103: key `i` is bit `i` of the mask. -/
theorem decodeButton_key (q : Payload) {i : Nat} (hi : i < 7) : (decodeButton q).keys.getLsbD i = q.q1.getLsbD i := by
  simp [decodeButton, hi]

/-! ### The pure functions as operations: the result is all that changes (R114) -/

theorem exec_checksum (a b c : Byte) (s : State) :
    exec (.checksum a b c) s = .next { s with trace := s.trace ++ [.ret (.byte (checksum a b c))] } := rfl

theorem exec_digitByte (b : Byte) (s : State) : exec (.digitByte b) s =
    .next { s with trace := s.trace ++ [.ret (.digit (digitByte s.cfg.digit b).1 (digitByte s.cfg.digit b).2)] } := rfl

theorem exec_decodeButton (q0 q1 q2 q3 : Byte) (s : State) : exec (.decodeButton q0 q1 q2 q3) s =
    .next { s with trace := s.trace ++ [.ret (.buttons (decodeButton ⟨q0, q1, q2, q3⟩))] } := rfl

theorem exec_decodeDisplay (q0 q1 q2 q3 : Byte) (s : State) : exec (.decodeDisplay q0 q1 q2 q3) s =
    .next { s with trace := s.trace ++ [.ret (.display (decodeDisplay s.cfg.digit ⟨q0, q1, q2, q3⟩))] } := rfl

theorem exec_encodeKeepalive (s : State) :
    exec .encodeKeepalive s = .next { s with trace := s.trace ++ [.ret (.frame encodeKeepalive)] } := rfl

/-! ### One digit byte -/

theorem digitByte_mapped {d : DigitTable} {b : Byte} {g : Glyph} (hmapped : lookupDigit d (b.extractLsb' 0 7) = some g) :
    digitByte d b = (some g, b.getLsbD 7) := by
  simp only [digitByte, segOf_eq, hmapped, dpBit]

theorem digitByte_unmapped {d : DigitTable} {b : Byte} (hunmapped : lookupDigit d (b.extractLsb' 0 7) = none) :
    digitByte d b = (none, false) := by
  simp only [digitByte, segOf_eq, hunmapped]

/-- R101: the glyph is the table's, the placeholder standing for an unmapped pattern. -/
theorem digitByte_fst (d : DigitTable) (b : Byte) : (digitByte d b).1 = lookupDigit d (b.extractLsb' 0 7) := by
  cases hlookup : lookupDigit d (b.extractLsb' 0 7) with
  | none => rw [digitByte_unmapped hlookup]
  | some g => rw [digitByte_mapped hlookup]

/-- R101: only a mapped byte carries a point. -/
theorem digitByte_snd_iff (d : DigitTable) (b : Byte) :
    (digitByte d b).2 = true ↔ lookupDigit d (b.extractLsb' 0 7) ≠ none ∧ b.getLsbD 7 = true := by
  cases hlookup : lookupDigit d (b.extractLsb' 0 7) with
  | none => simp [digitByte_unmapped hlookup]
  | some g => simp [digitByte_mapped hlookup]

theorem glyphVal_digitByte {d : DigitTable} {b : Byte} {n : Fin 10}
    (hdigit : lookupDigit d (b.extractLsb' 0 7) = some (.digit n)) : glyphVal (digitByte d b).1 = some n.val := by
  rw [digitByte_fst]
  exact glyphVal_some_iff.mpr ⟨n, hdigit, rfl⟩

/-- R9, R101: a byte has no value exactly where its glyph is no digit. -/
theorem glyphVal_digitByte_eq_none_iff (d : DigitTable) (b : Byte) : glyphVal (digitByte d b).1 = none ↔
    ∀ n : Fin 10, lookupDigit d (b.extractLsb' 0 7) ≠ some (.digit n) := by
  rw [digitByte_fst, Option.eq_none_iff_forall_ne_some]
  exact ⟨fun hnone n hdigit => hnone n.val (glyphVal_some_iff.mpr ⟨n, hdigit, rfl⟩), fun hno v hv => by
    obtain ⟨n, hdigit, -⟩ := glyphVal_some_iff.mp hv
    exact hno n hdigit⟩

theorem startsWithE_iff (d : DigitTable) (b : Byte) :
    startsWithE d b = true ↔ lookupDigit d (b.extractLsb' 0 7) = some .e := by
  rw [startsWithE, segOf_eq, beq_iff_eq]

/-! ### The branches of `DECODE_DISPLAY` (R104) -/

theorem decodeDisplay_eq_fault {d : DigitTable} {q : Payload} (notZero : q ≠ zeroPayload) (notReset : q ≠ resetPayload)
    (hE : lookupDigit d (q.q0.extractLsb' 0 7) = some .e) : decodeDisplay d q = decodeFault d q := by
  rw [decodeDisplay, if_neg notZero, if_neg notReset, if_pos ((startsWithE_iff d q.q0).mpr hE)]

theorem decodeDisplay_eq_value {d : DigitTable} {q : Payload} (notZero : q ≠ zeroPayload) (notReset : q ≠ resetPayload)
    (hE : lookupDigit d (q.q0.extractLsb' 0 7) ≠ some .e) : decodeDisplay d q = decodeValue d q := by
  rw [decodeDisplay, if_neg notZero, if_neg notReset, if_neg (mt (startsWithE_iff d q.q0).mp hE)]

theorem decodeFault_digits {d : DigitTable} {q : Payload} {a b : Nat} (ha : glyphVal (digitByte d q.q1).1 = some a)
    (hb : glyphVal (digitByte d q.q2).1 = some b) : decodeFault d q = .fault (10 * a + b) (ckBad q) := by
  simp only [decodeFault, ha, hb]

/-- R110: where either digit of the code is missing, there is no code. -/
theorem decodeFault_missing {d : DigitTable} {q : Payload}
    (h : glyphVal (digitByte d q.q1).1 = none ∨ glyphVal (digitByte d q.q2).1 = none) :
    decodeFault d q = .formatError .nonDigit := by
  unfold decodeFault
  split
  case h_1 ha hb => simp [ha, hb] at h
  case h_2 => rfl

/-- The scan of the three digit bytes of a value frame. -/
def scanPayload (d : DigitTable) (q : Payload) : Except FormatReason (Nat × Int) :=
  scanDigits 0 false 0 0 [digitByte d q.q0, digitByte d q.q1, digitByte d q.q2]

theorem decodeValue_of_scan_ok {d : DigitTable} {q : Payload} {m : Nat} {e : Int} (hscan : scanPayload d q = .ok (m, e)) :
    decodeValue d q = .value m e (ckBad q) := by
  rw [scanPayload] at hscan
  simp only [decodeValue, hscan]

theorem decodeValue_of_scan_error {d : DigitTable} {q : Payload} {why : FormatReason}
    (hscan : scanPayload d q = .error why) : decodeValue d q = .formatError why := by
  rw [scanPayload] at hscan
  simp only [decodeValue, hscan]

/-- How a result of `DECODE_DISPLAY` comes about. -/
inductive DisplayOrigin (d : DigitTable) (q : Payload) : DisplayResult → Prop
  | noHeight (hzero : q = zeroPayload) : DisplayOrigin d q .noHeight
  | reset (hreset : q = resetPayload) : DisplayOrigin d q .reset
  | fault (a b : Nat) (ha : glyphVal (digitByte d q.q1).1 = some a) (hb : glyphVal (digitByte d q.q2).1 = some b) :
      DisplayOrigin d q (.fault (10 * a + b) (ckBad q))
  | value (m : Nat) (e : Int) (hscan : scanPayload d q = .ok (m, e)) : DisplayOrigin d q (.value m e (ckBad q))
  | formatError (why : FormatReason) : DisplayOrigin d q (.formatError why)

theorem decodeFault_origin (d : DigitTable) (q : Payload) : DisplayOrigin d q (decodeFault d q) := by
  cases ha : glyphVal (digitByte d q.q1).1 with
  | none => exact decodeFault_missing (.inl ha) ▸ .formatError _
  | some a =>
    cases hb : glyphVal (digitByte d q.q2).1 with
    | none => exact decodeFault_missing (.inr hb) ▸ .formatError _
    | some b => exact decodeFault_digits ha hb ▸ .fault a b ha hb

theorem decodeValue_origin (d : DigitTable) (q : Payload) : DisplayOrigin d q (decodeValue d q) := by
  cases hscan : scanPayload d q with
  | ok r => exact decodeValue_of_scan_ok hscan ▸ .value r.1 r.2 hscan
  | error why => exact decodeValue_of_scan_error hscan ▸ .formatError why

/-- Everything `DECODE_DISPLAY` can answer (R104). -/
theorem decodeDisplay_origin (d : DigitTable) (q : Payload) : DisplayOrigin d q (decodeDisplay d q) := by
  unfold decodeDisplay
  split_ifs with hzero hreset
  · exact .noHeight hzero
  · exact .reset hreset
  · exact decodeFault_origin d q
  · exact decodeValue_origin d q

theorem decodeDisplay_eq_noHeight_iff (d : DigitTable) (q : Payload) : decodeDisplay d q = .noHeight ↔ q = zeroPayload := by
  refine ⟨fun h => ?_, fun h => if_pos h⟩
  have horigin := decodeDisplay_origin d q
  rw [h] at horigin
  cases horigin with
  | noHeight hzero => exact hzero

theorem decodeDisplay_eq_reset_iff (d : DigitTable) (q : Payload) : decodeDisplay d q = .reset ↔ q = resetPayload := by
  refine ⟨fun h => ?_, fun h => by subst h; rfl⟩
  have horigin := decodeDisplay_origin d q
  rw [h] at horigin
  cases horigin with
  | reset hreset => exact hreset

/-- R113, R116: a fault code has two decimal digits. -/
theorem decodeDisplay_fault_le {d : DigitTable} {q : Payload} {code : Nat} {bad : Bool}
    (h : decodeDisplay d q = .fault code bad) : code ≤ 99 := by
  have horigin := decodeDisplay_origin d q
  rw [h] at horigin
  cases horigin with
  | fault a b ha hb =>
    have := glyphVal_lt ha
    have := glyphVal_lt hb
    omega

/-! ### One byte of the scan (R108 to R110) -/

/-- R109: a second point is found whatever the glyph of its byte is. -/
theorem scanDigits_dupDp {i m : Nat} {seen : Bool} {e : Int} {p : Option Glyph × Bool} (rest : List (Option Glyph × Bool))
    (hpoint : p.2 = true) (hseen : seen = true) : scanDigits i seen e m (p :: rest) = .error .dupDp := by
  simp [scanDigits, hpoint, hseen]

theorem scanDigits_nonDigit {i m : Nat} {seen : Bool} {e : Int} {p : Option Glyph × Bool}
    (rest : List (Option Glyph × Bool)) (honly : ¬ (seen = true ∧ p.2 = true)) (hglyph : glyphVal p.1 = none) :
    scanDigits i seen e m (p :: rest) = .error .nonDigit := by
  rw [scanDigits, if_neg (by simpa [and_comm] using honly), hglyph]

theorem scanDigits_digit {i m v : Nat} {seen : Bool} {e : Int} {p : Option Glyph × Bool}
    (rest : List (Option Glyph × Bool)) (honly : ¬ (seen = true ∧ p.2 = true)) (hglyph : glyphVal p.1 = some v) :
    scanDigits i seen e m (p :: rest) =
      scanDigits (i + 1) (seen || p.2) (if p.2 then exponentAt i else e) (10 * m + v) rest := by
  rw [scanDigits, if_neg (by simpa [and_comm] using honly), hglyph]

/-- A point on the last byte is the first where it meets none before it. -/
theorem no_earlier_point {p0 p1 p2 : Bool} (h02 : (p0 && p2) = false) (h12 : (p1 && p2) = false) :
    ¬ ((false || p0 || p1) = true ∧ p2 = true) := by
  decide +revert

/-- R108: the exponent the scan leaves, each point overwriting it, is that of the one flagged byte. -/
theorem exponent_of_onePoint {p0 p1 p2 : Bool} (h01 : (p0 && p1) = false) (h02 : (p0 && p2) = false)
    (h12 : (p1 && p2) = false) :
    (if p2 then exponentAt 2 else if p1 then exponentAt 1 else if p0 then exponentAt 0 else 0) =
      if p0 then (-2 : Int) else if p1 then -1 else 0 := by
  decide +revert

/-! ### Generated frames -/

/-- R117: mask and complement sum to `FF`. -/
theorem ckValid_synthFrame (m : Byte) : ckValid (synthFrame m).payload = true := by
  rw [ckValid_iff]
  show 255 = (0 + m.toNat + (0xFF#8 - m).toNat) % 256
  bv_omega

theorem decodeButton_synthFrame (m : Byte) :
    decodeButton (synthFrame m).payload = ⟨m.setWidth 7, noneBit (m.setWidth 7), false⟩ := by
  simp only [decodeButton, ckBad, ckValid_synthFrame]
  rfl

theorem cleanFrame_synthFrame {m : Byte} (hmask : m ≠ 0xA5#8) (hcomplement : 0xFF#8 - m ≠ 0xA5#8) :
    CleanFrame .H (synthFrame m) :=
  ⟨rfl, show 0x00#8 ≠ 0xA5#8 by decide, hmask, hcomplement, show 0xFF#8 ≠ 0xA5#8 by decide⟩

theorem cleanFrame_slotFrame (sl : Slot) : CleanFrame .H (slotFrame sl) := by
  cases sl <;> exact cleanFrame_synthFrame (by decide) (by decide)

/-! ### Pump C -/

/-- R136 to R139: a frame whose decode result is only reported, as one update. -/
theorem pumpCOk_of_report {f : Frame} {r : DisplayResult} {d : Diag} {s : State}
    (hdecode : decodeDisplay s.cfg.digit f.payload = r) (hreport : ∀ u, actOnDisplay f r u = raiseDiag d u) :
    pumpCOk f s =
      { s with
        wdtCnt := s.cfg.wdtTimeout
        trace := s.trace ++ [.diag d] ++ if s.cfg.passThrough = true then [.txHand f] else [] } := by
  rw [pumpCOk, hdecode, hreport, passThrough_eq]
  rfl

theorem exec_dispFault_clean {p0 d1 d2 ck : Byte} {s : State} (hhunt : Hunting .C s)
    (hclean : CleanFrame .C ⟨0x5A#8, p0, d1, d2, ck⟩) :
    exec (.dispFault p0 d1 d2 ck) s = .next (pumpCOk ⟨0x5A#8, p0, d1, d2, ck⟩ s) :=
  frameArrives_clean hhunt hclean

/-! ### The obligations -/

/-- Settles O10: the fault branch, by whether both digits of the code are there. -/
theorem faultDecode : Obligations.FaultDecode := by
  intro d q hE notZero notReset
  rw [decodeDisplay_eq_fault notZero notReset hE, ← ckBad_eq]
  refine ⟨fun a b ha hb => decodeFault_digits (glyphVal_digitByte ha) (glyphVal_digitByte hb), fun hmissing => ?_⟩
  exact decodeFault_missing (hmissing.imp (glyphVal_digitByte_eq_none_iff d q.q1).mpr
    (glyphVal_digitByte_eq_none_iff d q.q2).mpr)

/-- Settles O11: the scan passes all three bytes, and no point meets an earlier one. -/
theorem valueDecode : Obligations.ValueDecode := by
  intro d q a b c ha hb hc notZero notReset h01 h02 h12
  have hscan : scanPayload d q = .ok (100 * a.val + 10 * b.val + c.val,
      if q.q0.getLsbD 7 then -2 else if q.q1.getLsbD 7 then -1 else 0) := by
    rw [scanPayload, digitByte_mapped ha, digitByte_mapped hb, digitByte_mapped hc,
      scanDigits_digit (v := a) _ (by simp) rfl, scanDigits_digit (v := b) _ (by simpa using h01) rfl,
      scanDigits_digit (v := c) _ (no_earlier_point h02 h12) rfl, scanDigits, exponent_of_onePoint h01 h02 h12]
    congr 2
    omega
  rw [decodeDisplay_eq_value notZero notReset (by simp [ha]), decodeValue_of_scan_ok hscan, ckBad_eq]

/-- Settles O12: the scan, stopped at each of the five places where it can fail. -/
theorem formatErrorDecode : Obligations.FormatErrorDecode := by
  intro d q notE notZero notReset isDigit point
  have fails {why : FormatReason} (hscan : scanPayload d q = .error why) : decodeDisplay d q = .formatError why := by
    rw [decodeDisplay_eq_value notZero notReset notE, decodeValue_of_scan_error hscan]
  have value {b : Byte} : isDigit b → ∃ v, glyphVal (digitByte d b).1 = some v :=
    fun ⟨n, hn⟩ => ⟨n.val, glyphVal_digitByte hn⟩
  have noValue {b : Byte} (h : ¬ isDigit b) : glyphVal (digitByte d b).1 = none :=
    (glyphVal_digitByte_eq_none_iff d b).mpr (not_exists.mp h)
  have point_iff (b : Byte) : point b ↔ (digitByte d b).2 = true := (digitByte_snd_iff d b).symm
  simp only [point_iff]
  refine ⟨fun h0 => fails ?_, fun h0 h01 => fails ?_, fun h0 h01 h1 => fails ?_, fun h0 h1 h01 h2 => fails ?_,
    fun h0 h1 h01 hlast h2 => fails ?_⟩
  · rw [scanPayload, scanDigits_nonDigit _ (by simp) (noValue h0)]
  · obtain ⟨a, ha⟩ := value h0
    rw [scanPayload, scanDigits_digit _ (by simp) ha, scanDigits_dupDp _ h01.2 (by simpa using h01.1)]
  · obtain ⟨a, ha⟩ := value h0
    rw [scanPayload, scanDigits_digit _ (by simp) ha, scanDigits_nonDigit _ (by simpa using h01) (noValue h1)]
  · obtain ⟨a, ha⟩ := value h0
    obtain ⟨b, hb⟩ := value h1
    rw [scanPayload, scanDigits_digit _ (by simp) ha, scanDigits_digit _ (by simpa using h01) hb,
      scanDigits_dupDp _ h2.2 (by simpa using h2.1)]
  · obtain ⟨a, ha⟩ := value h0
    obtain ⟨b, hb⟩ := value h1
    rw [scanPayload, scanDigits_digit _ (by simp) ha, scanDigits_digit _ (by simpa using h01) hb,
      scanDigits_nonDigit _ (by simpa using hlast) (noValue h2)]

/-- Settles O13: by where the result comes from; the scan bounds the numbers of a value. -/
theorem displayResultsInRange : Obligations.DisplayResultsInRange :=
  fun _ _ => ⟨fun _ _ => decodeDisplay_fault_le, fun _ _ _ => decodeDisplay_value_inRange⟩

/-- Settles O30: the frame reaches pump C as it is, and either result of the fault branch is only reported. -/
theorem faultFrameHandled : Obligations.FaultFrameHandled := by
  intro p0 d1 d2 ck s hhunt hwf hclean f pass
  obtain ⟨startsE, notZero, notReset⟩ := wellFormed_dispFault_iff.mp hwf
  obtain ⟨hcode, hmissing⟩ := faultDecode s.cfg.digit f.payload ((startsWithE_iff _ _).mp startsE) notZero notReset
  rw [exec_dispFault_clean hhunt hclean]
  exact ⟨fun a b ha hb => congrArg _ (pumpCOk_of_report (hcode a b ha hb) fun _ => rfl),
    fun h => congrArg _ (pumpCOk_of_report (hmissing h) fun _ => rfl)⟩

/-- Settles O6: the byte given back is the sum reduced, and the test compares with it. -/
theorem checksumIsSumMod256 : Obligations.ChecksumIsSumMod256 :=
  ⟨fun a b c s => ⟨checksum a b c, checksum_toNat a b c, exec_checksum a b c s⟩, ckValid_iff⟩

/-- Settles O7: a mapped and an unmapped pattern, under the state's own table. -/
theorem digitByteResult : Obligations.DigitByteResult := by
  intro b s
  rw [exec_digitByte]
  refine ⟨fun g hmapped => ?_, fun hunmapped => ?_⟩
  · rw [digitByte_mapped hmapped]
  · rw [digitByte_unmapped hunmapped]

/-- Settles O8: the record given back, field by field. -/
theorem decodeButtonResult : Obligations.DecodeButtonResult := fun q0 q1 q2 q3 s =>
  ⟨decodeButton ⟨q0, q1, q2, q3⟩, fun _ => decodeButton_key ⟨q0, q1, q2, q3⟩, noneBit_iff _, ckBad_iff ⟨q0, q1, q2, q3⟩,
    exec_decodeButton q0 q1 q2 q3 s⟩

/-- Settles O9: no later test answers what the first two answer. -/
theorem distinguishedDisplays : Obligations.DistinguishedDisplays :=
  ⟨decodeDisplay_eq_noHeight_iff, decodeDisplay_eq_reset_iff, exec_decodeDisplay⟩

/-- Settles O15: the keep-alive frame and the command frames are all of the generated form, whose decoding is that of its mask. -/
theorem generatedFramesDecode : Obligations.GeneratedFramesDecode := by
  refine ⟨exec_encodeKeepalive, fun m => ⟨ckValid_synthFrame m, rfl⟩, fun keys hkeys => ?_,
    cleanFrame_slotFrame, cleanFrame_synthFrame (by decide) (by decide)⟩
  have hmask : (keys.zeroExtend 8).setWidth 7 = keys := by
    rw [BitVec.setWidth_setWidth_of_le _ (by decide), BitVec.setWidth_eq]
  have hnone : noneBit keys = false := Bool.eq_false_iff.mpr (mt (noneBit_iff keys).mp hkeys)
  calc decodeButton (synthFrame (keys.zeroExtend 8)).payload
      = ⟨(keys.zeroExtend 8).setWidth 7, noneBit ((keys.zeroExtend 8).setWidth 7), false⟩ := decodeButton_synthFrame _
    _ = ⟨keys, false, false⟩ := by rw [hmask, hnone]

end Sys2Proof.Machine

/-! The command encoder: which numbers name a preset, and the frame of each (42_command_encoder.md R120, R121). -/

namespace Sys2Proof.Machine

/-! ### The preset a number names -/

/-- R121, R143: the presets are exactly the numbers 1 to 4. -/
theorem slotOf_eq_none_iff {slot : Nat} : slotOf slot = none ↔ slot < 1 ∨ 4 < slot := by
  match slot with
  | 0 | 1 | 2 | 3 | 4 => decide
  | n + 5 => exact ⟨fun _ => .inr (by omega), fun _ => rfl⟩

theorem slotOf_toNat {slot : Nat} {sl : Slot} (h : slotOf slot = some sl) : sl.toNat = slot := by
  unfold slotOf at h
  split at h <;> cases h <;> rfl

/-! ### `ENCODE_COMMAND` -/

/-- R120: the mask is built from the number itself, as it is the number of the preset it names. -/
theorem encodeCommand_of_inRange {slot : Nat} (hlow : 1 ≤ slot) (hhigh : slot ≤ 4) :
    encodeCommand slot = .ok (synthFrame (1#8 <<< slot)) := by
  have hnamed : slotOf slot ≠ none := mt slotOf_eq_none_iff.mp (by omega)
  obtain ⟨sl, hsl⟩ := Option.ne_none_iff_exists'.mp hnamed
  rw [encodeCommand, hsl, ← slotOf_toNat hsl]
  rfl

theorem encodeCommand_of_outOfRange {slot : Nat} (h : slot < 1 ∨ 4 < slot) : encodeCommand slot = .error .badSlot := by
  rw [encodeCommand, slotOf_eq_none_iff.mpr h]

theorem exec_encodeCommand_ok {slot : Nat} {f : Frame} (h : encodeCommand slot = .ok f) (s : State) :
    exec (.encodeCommand slot) s = .next { s with trace := s.trace ++ [.ret (.frame f)] } := by
  simp only [exec, execEncodeCommand, h]
  rfl

theorem exec_encodeCommand_error {slot : Nat} {e : HostError} (h : encodeCommand slot = .error e) (s : State) :
    exec (.encodeCommand slot) s = .next { s with trace := s.trace ++ [.ret (.error e)] } := by
  simp only [exec, execEncodeCommand, h]
  rfl

/-- Settles O14: by whether the number names a preset; the state takes no part in it. -/
theorem encoderResults : Obligations.EncoderResults :=
  ⟨fun _ s hlow hhigh => exec_encodeCommand_ok (encodeCommand_of_inRange hlow hhigh) s,
    fun _ s hout => exec_encodeCommand_error (encodeCommand_of_outOfRange hout) s⟩

end Sys2Proof.Machine

/-! The pumps on the frames of the other classes, and the bus: grants, `MOVE_TO`, the writes of the generated frames and the tick of
a command burst (43_bridge_arbiter.md R131 to R149, R163, R164; log 6, log 7, log 9). -/

namespace Sys2Proof.Machine

/-! ### Frames that reach their pump -/

theorem exec_button_clean {p0 mask p2 ck : Byte} {s : State} (hhunt : Hunting .H s)
    (hclean : CleanFrame .H ⟨0xA5#8, p0, mask, p2, ck⟩) :
    exec (.button p0 mask p2 ck) s = .next (pumpHOk ⟨0xA5#8, p0, mask, p2, ck⟩ s) :=
  frameArrives_clean hhunt hclean

theorem exec_dispValue_clean {p0 p1 p2 ck : Byte} {s : State} (hhunt : Hunting .C s)
    (hclean : CleanFrame .C ⟨0x5A#8, p0, p1, p2, ck⟩) :
    exec (.dispValue p0 p1 p2 ck) s = .next (pumpCOk ⟨0x5A#8, p0, p1, p2, ck⟩ s) :=
  frameArrives_clean hhunt hclean

theorem exec_dispNoheight_hunting {s : State} (hhunt : Hunting .C s) :
    exec .dispNoheight s = .next (pumpCOk (framed .C zeroPayload) s) :=
  frameArrives_clean hhunt (by unfold CleanFrame; decide)

theorem exec_dispReset_hunting {s : State} (hhunt : Hunting .C s) :
    exec .dispReset s = .next (pumpCOk (framed .C resetPayload) s) :=
  frameArrives_clean hhunt (by unfold CleanFrame; decide)

/-- R103: the keys are the mask without its bit 7. -/
theorem decodeButton_keys (q : Payload) : (decodeButton q).keys = q.q1.extractLsb' 0 7 := segOf_eq q.q1

theorem decodeButton_isNone (q : Payload) : (decodeButton q).isNone = decide (q.q1.extractLsb' 0 7 = 0#7) := by
  rw [← decodeButton_keys, Bool.eq_iff_iff, decide_eq_true_iff]
  exact noneBit_iff (decodeButton q).keys

/-- R139: on `NoHeight` pump C only feeds and passes through. -/
theorem pumpCOk_noHeight {f : Frame} {s : State} (hdecode : decodeDisplay s.cfg.digit f.payload = .noHeight) :
    pumpCOk f s =
      { s with
        wdtCnt := s.cfg.wdtTimeout
        trace := s.trace ++ if s.cfg.passThrough = true then [.txHand f] else [] } := by
  rw [pumpCOk, hdecode, passThrough_eq]
  rfl

/-- R137: a value with a good checksum is written, and not reported. -/
theorem pumpCOk_goodValue {f : Frame} {s : State} {m : Nat} {e : Int}
    (hdecode : decodeDisplay s.cfg.digit f.payload = .value m e false) :
    pumpCOk f s =
      { s with
        wdtCnt := s.cfg.wdtTimeout
        pos := ⟨m, e⟩
        trace := s.trace ++ if s.cfg.passThrough = true then [.txHand f] else [] } := by
  rw [pumpCOk, hdecode, passThrough_eq]
  rfl

/-! ### Grants -/

theorem exec_grantCmd_enabled {s : State} (h : cmdGrantable s = true) : exec .grantCmd s = .next (startCmdBurst s) :=
  congrArg _ (if_pos h)

theorem exec_grantKa_enabled {s : State} (h : kaGrantable s = true) : exec .grantKa s = .next (startKaBurst s) :=
  congrArg _ (if_pos h)

theorem exec_grantCmd_disabled {s : State} (h : cmdGrantable s ≠ true) : exec .grantCmd s = .next s :=
  congrArg _ (if_neg h)

theorem exec_grantKa_disabled {s : State} (h : kaGrantable s ≠ true) : exec .grantKa s = .next s :=
  congrArg _ (if_neg h)

/-- R190: the block is in one mode or the other. -/
theorem mode_ne_run_of_diag {s : State} (h : s.mode = .diag) : s.mode ≠ .run := by simp [h]

/-! ### `MOVE_TO` and the remote bit -/

theorem exec_moveTo_diag {s : State} (slot : Byte) (hdiag : s.mode = .diag) :
    exec (.moveTo slot) s = .next (giveBack (.error .notRunning) s) := by simp only [exec, execMoveTo, hdiag]

/-- R149: a request waits at the port while a command is in progress. -/
theorem exec_moveTo_busy {s : State} (slot : Byte) (hrun : s.mode = .run) (hbusy : s.cmdState ≠ .idle) :
    exec (.moveTo slot) s = .next s := by
  cases hcmd : s.cmdState with
  | idle => exact absurd hcmd hbusy
  | waitLock => simp only [exec, execMoveTo, hrun, hcmd]
  | burst => simp only [exec, execMoveTo, hrun, hcmd]

theorem exec_moveTo_remoteDisabled {s : State} (slot : Byte) (hrun : s.mode = .run) (hidle : s.cmdState = .idle)
    (hremote : s.remoteEn = false) : exec (.moveTo slot) s = .next (giveBack (.error .remoteDisabled) s) := by
  simp [exec, execMoveTo, hrun, hidle, hremote]

theorem exec_moveTo_badSlot {s : State} {slot : Byte} (hrun : s.mode = .run) (hidle : s.cmdState = .idle)
    (hremote : s.remoteEn = true) (hslot : slotOf slot.toNat = none) :
    exec (.moveTo slot) s = .next (giveBack (.error .badSlot) s) := by
  simp [exec, execMoveTo, hrun, hidle, hremote, hslot]

theorem exec_moveTo_accepted {s : State} {slot : Byte} {sl : Slot} (hrun : s.mode = .run) (hidle : s.cmdState = .idle)
    (hremote : s.remoteEn = true) (hslot : slotOf slot.toNat = some sl) :
    exec (.moveTo slot) s = .next { s with cmdSlot := sl, cmdState := .waitLock } := by
  simp [exec, execMoveTo, hrun, hidle, hremote, hslot]

theorem exec_setRemoteEnabled_run (b : Bool) {s : State} (hrun : s.mode = .run) :
    exec (.setRemoteEnabled b) s = .next { s with remoteEn := b } := by simp only [exec, execSetRemoteEnabled, hrun]

theorem exec_setRemoteEnabled_diag (b : Bool) {s : State} (hdiag : s.mode = .diag) :
    exec (.setRemoteEnabled b) s = .next s := by simp only [exec, execSetRemoteEnabled, hdiag]

/-! ### Writes of the generated frames -/

theorem exec_keepalive (s : State) : exec .keepalive s = kaFrameWrite s := rfl

theorem cmdFrameWrite_holder {sl : Slot} {s : State} (hrun : s.mode = .run) (hburst : s.cmdState = .burst)
    (hslot : s.cmdSlot = sl) : cmdFrameWrite sl s = writeCmdBurst s := if_pos ⟨hrun, hburst, hslot⟩

theorem kaFrameWrite_holder {s : State} (hrun : s.mode = .run) (hburst : s.kaState = .firingBurst) :
    kaFrameWrite s = writeKaBurst s := if_pos ⟨hrun, hburst⟩

theorem cmdFrameWrite_other {sl : Slot} {s : State} (h : s.mode = .diag ∨ s.cmdState ≠ .burst ∨ s.cmdSlot ≠ sl) :
    cmdFrameWrite sl s = .next s := by
  refine if_neg fun ⟨hrun, hburst, hslot⟩ => ?_
  rcases h with hdiag | hcmd | hother
  · exact mode_ne_run_of_diag hdiag hrun
  · exact hcmd hburst
  · exact hother hslot

theorem kaFrameWrite_other {s : State} (h : s.mode = .diag ∨ s.kaState ≠ .firingBurst) : kaFrameWrite s = .next s := by
  refine if_neg fun ⟨hrun, hburst⟩ => ?_
  rcases h with hdiag | hka
  · exact mode_ne_run_of_diag hdiag hrun
  · exact hka hburst

/-! ### Ticks outside a keep-alive burst -/

@[simp] theorem afterInterval_cmdState (s : State) : (afterInterval s).cmdState = s.cmdState := by rw [afterInterval_frame]
@[simp] theorem afterInterval_cmdSlot (s : State) : (afterInterval s).cmdSlot = s.cmdSlot := by rw [afterInterval_frame]
@[simp] theorem afterInterval_cmdN (s : State) : (afterInterval s).cmdN = s.cmdN := by rw [afterInterval_frame]
@[simp] theorem afterInterval_cmdSp (s : State) : (afterInterval s).cmdSp = s.cmdSp := by rw [afterInterval_frame]
@[simp] theorem afterInterval_cfg (s : State) : (afterInterval s).cfg = s.cfg := by rw [afterInterval_frame]
@[simp] theorem afterInterval_mode (s : State) : (afterInterval s).mode = s.mode := by rw [afterInterval_frame]
@[simp] theorem afterInterval_kaPending (s : State) : (afterInterval s).kaPending = s.kaPending := by rw [afterInterval_frame]
@[simp] theorem afterInterval_trace (s : State) : (afterInterval s).trace = s.trace := by rw [afterInterval_frame]

/-- R145: the tick that runs the spacing out, with a write to come after its own. -/
theorem cmdTick_writes_more {s : State} (hburst : s.cmdState = .burst) (hsp : s.cmdSp = 1) (hn : 2 ≤ s.cmdN) :
    cmdTick s = .next
      { s with cmdSp := s.cfg.spacing, cmdN := s.cmdN - 1, trace := s.trace ++ [.txCtrl (slotFrame s.cmdSlot)] } := by
  rw [cmdTick_writes hburst hsp, writeCmdBurst_more (s := { s with cmdSp := 0 }) hn]

/-- R146: the tick that runs the spacing out before the last write. -/
theorem cmdTick_writes_last {s : State} (hburst : s.cmdState = .burst) (hsp : s.cmdSp = 1) (hn : s.cmdN = 1) :
    cmdTick s = .next
      { s with
        cmdSp := 0, cmdN := 0, act := false, busOwner := .free, cmdState := .idle
        kaTimer := if s.kaState = .waiting then s.cfg.kaInterval else s.kaTimer
        kaPending := if s.kaState = .waiting then s.kaPending else true
        trace := s.trace ++ [.txCtrl (slotFrame s.cmdSlot), .act false, .ret .ok] } := by
  rw [cmdTick_writes hburst hsp, writeCmdBurst_last (s := { s with cmdSp := 0 }) hn]

/-- `KA_BURST_TICK` finds no burst where there was none before `CMD_TICK`. -/
theorem andThen_cmdTick_kaBurstTick {s : State} (h : s.kaState ≠ .firingBurst) :
    andThen (cmdTick s) kaBurstTick = cmdTick s := by
  cases hcmd : cmdTick s with
  | next t =>
    obtain ⟨hka, -⟩ := cmdTick_keeps_ka hcmd
    exact kaBurstTick_idle (hka ▸ h)
  | fault r => rfl
  | refused r => rfl

/-- R171: outside a keep-alive burst and before the watchdog's end, the tick is the command's tick after the interval part. -/
theorem exec_tick_outside_kaBurst {s : State} (hrun : s.mode = .run) (hwdt : 2 ≤ s.wdtCnt) (hka : s.kaState ≠ .firingBurst)
    (htimer : s.kaState = .waiting → 1 ≤ s.kaTimer) :
    exec .tick s = cmdTick { afterInterval s with wdtCnt := s.wdtCnt - 1 } := by
  have hafter : ({ afterInterval s with wdtCnt := s.wdtCnt - 1 } : State).kaState ≠ .firingBurst := afterInterval_notBurst hka
  rw [exec_tick_run hrun, tickRun_counts hwdt, kaIntervalTick_eq (s := { s with wdtCnt := s.wdtCnt - 1 }) htimer,
    andThen_next, afterInterval_wdt, andThen_cmdTick_kaBurstTick hafter]

/-! ### The obligations -/

/-- Settles O27: the frame reaches pump H as it is, whose parts make one update. -/
theorem buttonFrameHandled : Obligations.ButtonFrameHandled := by
  intro p0 mask p2 ck s hhunt hclean f keys
  rw [exec_button_clean hhunt hclean, pumpHOk_eq, decodeButton_keys, decodeButton_isNone, ckBad_eq]
  simp only [decide_eq_true_eq, decide_eq_false_iff_not, List.append_assoc, ite_not, ne_eq]
  rfl

/-- Settles O28: the payload decodes to `NoHeight` under every table. -/
theorem noHeightFrameHandled : Obligations.NoHeightFrameHandled := by
  intro s hhunt
  rw [exec_dispNoheight_hunting hhunt, pumpCOk_noHeight ((decodeDisplay_eq_noHeight_iff _ _).mpr rfl)]
  rfl

/-- Settles O29: the payload decodes to `Reset` under every table, which is only reported. -/
theorem resetFrameHandled : Obligations.ResetFrameHandled := by
  intro s hhunt
  rw [exec_dispReset_hunting hhunt, pumpCOk_of_report ((decodeDisplay_eq_reset_iff _ _).mpr rfl) fun _ => rfl]
  rfl

/-- Settles O31: the frame reaches pump C as it is; a good value is written, the two other results are only reported. -/
theorem valueFrameHandled : Obligations.ValueFrameHandled := by
  intro p0 p1 p2 ck s hhunt hclean f pass
  rw [exec_dispValue_clean hhunt hclean]
  exact ⟨fun m e hgood => congrArg _ (pumpCOk_goodValue hgood),
    fun m e hbad => congrArg _ (pumpCOk_of_report hbad fun _ => rfl),
    fun why herror => congrArg _ (pumpCOk_of_report herror fun _ => rfl)⟩

/-- Settles O35: the grant is enabled, and starts the burst with the frame written out. -/
theorem grantStartsBurst : Obligations.GrantStartsBurst := by
  refine ⟨fun s hrun hfree hwait => ?_, fun s hrun hfree hwait => ?_⟩
  · rw [exec_grantCmd_enabled ((cmdGrantable_iff s).mpr ⟨hrun, hfree, hwait⟩), startCmdBurst_eq]
    rfl
  · rw [exec_grantKa_enabled ((kaGrantable_iff s).mpr ⟨hrun, hfree, hwait⟩), startKaBurst_eq]
    rfl

/-- Settles O36: one check of `MOVE_TO` after the other. -/
theorem moveToChecks : Obligations.MoveToChecks := by
  refine fun slot s => ⟨exec_moveTo_diag slot, exec_moveTo_remoteDisabled slot, fun hrun hidle hremote hout => ?_,
    fun hrun hidle hremote hlow hhigh => ?_⟩
  · exact exec_moveTo_badSlot hrun hidle hremote (slotOf_eq_none_iff.mpr hout)
  · have hnamed : slotOf slot.toNat ≠ none := mt slotOf_eq_none_iff.mp (by omega)
    obtain ⟨sl, hsl⟩ := Option.ne_none_iff_exists'.mp hnamed
    exact ⟨sl, slotOf_toNat hsl, exec_moveTo_accepted hrun hidle hremote hsl⟩

/-- Settles O37: each premise breaks a condition of the grant; a command in progress keeps the request at the port. -/
theorem notEnabledChangesNothing : Obligations.NotEnabledChangesNothing := by
  refine fun s => ⟨fun h => exec_grantCmd_disabled fun hgrant => ?_, fun h => exec_grantKa_disabled fun hgrant => ?_,
    fun slot => exec_moveTo_busy slot⟩
  · obtain ⟨hrun, hfree, hwait⟩ := (cmdGrantable_iff s).mp hgrant
    rcases h with hdiag | hheld | hnot
    · exact mode_ne_run_of_diag hdiag hrun
    · exact hheld hfree
    · exact hnot hwait
  · obtain ⟨hrun, hfree, hwait⟩ := (kaGrantable_iff s).mp hgrant
    rcases h with hdiag | hheld | hnot
    · exact mode_ne_run_of_diag hdiag hrun
    · exact hheld hfree
    · exact hnot hwait

/-- Settles O38: the bit by mode; the query only returns. -/
theorem remoteBitAndPositionQuery : Obligations.RemoteBitAndPositionQuery := 
  ⟨fun b _ => exec_setRemoteEnabled_run b, fun b _ => exec_setRemoteEnabled_diag b, fun _ => rfl⟩

/-- Settles O42: for each of the two writers, a write with more to come, the last one, and one that is not enabled. -/
theorem generatedFrameWrites : Obligations.GeneratedFrameWrites := by
  refine ⟨fun sl i s hi => ?_, fun s => ?_⟩
  · have hwrite : exec i s = cmdFrameWrite sl s := by
      rcases hi with ⟨rfl, rfl⟩ | ⟨rfl, rfl⟩ | ⟨rfl, rfl⟩ | ⟨rfl, rfl⟩ <;> rfl
    rw [hwrite]
    refine ⟨fun hrun hburst hslot hn => ?_, fun hrun hburst hslot hn => ?_, cmdFrameWrite_other⟩
    · rw [cmdFrameWrite_holder hrun hburst hslot, writeCmdBurst_more hn, hslot]
      rfl
    · rw [cmdFrameWrite_holder hrun hburst hslot, writeCmdBurst_last hn, hslot]
      rfl
  · rw [exec_keepalive]
    refine ⟨fun hrun hburst hn => ?_, fun hrun hburst hn => ?_, kaFrameWrite_other⟩
    · rw [kaFrameWrite_holder hrun hburst, writeKaBurst_more hn]
      rfl
    · rw [kaFrameWrite_holder hrun hburst, writeKaBurst_last hn]
      rfl

/-- Settles O44: what is left of the tick after the interval part is the command's tick: it waits, writes, or writes the last. -/
theorem commandBurstTick : Obligations.CommandBurstTick := by
  intro s hrun hwdt hburst hka htimer _ u
  have hu : u.cmdState = .burst := (afterInterval_cmdState s).trans hburst
  have hsp : u.cmdSp = s.cmdSp := afterInterval_cmdSp s
  have hn : u.cmdN = s.cmdN := afterInterval_cmdN s
  rw [exec_tick_outside_kaBurst hrun hwdt hka htimer]
  refine ⟨fun hwaits => ?_, fun hwrites hmore => ?_, fun hwrites hlast => ?_⟩
  · rw [cmdTick_waits hu (hsp ▸ hwaits), hsp]
  · rw [cmdTick_writes_more hu (hsp.trans hwrites) (hn ▸ hmore)]
    simp [u]
  · rw [cmdTick_writes_last hu (hsp.trans hwrites) (hn.trans hlast)]
    simp [u]

end Sys2Proof.Machine

/-! Control transfers: how an operation can move the two loops, the cancellation, the command sequencer and the keep-alive task
(43_bridge_arbiter.md R151, 44_keepalive_watchdog.md R160, 10_state.md R17, R22). -/

namespace Sys2Proof.Machine

/-! ### The moves -/

/-- The moves of the command sequencer (R151). -/
inductive CmdMove (i : Instr) (s t : State) : Prop where
  | accept (idle : s.cmdState = .idle) (waits : t.cmdState = .waitLock) (op : ∃ slot, i = .moveTo slot)
  | start (waits : s.cmdState = .waitLock) (burst : t.cmdState = .burst) (op : i = .grantCmd)
  | finish (burst : s.cmdState = .burst) (idle : t.cmdState = .idle) (last : s.cmdN = 1)
      (op : i = .tick ∨ i = .cmdSlot1 ∨ i = .cmdSlot2 ∨ i = .cmdSlot3 ∨ i = .cmdSlot4)

/-- The moves of the keep-alive task (R160). -/
inductive KaMove (i : Instr) (s t : State) : Prop where
  | fire (waiting : s.kaState = .waiting) (fires : t.kaState = .firingWait) (out : s.kaTimer = 1) (op : i = .tick)
  | start (fires : s.kaState = .firingWait) (burst : t.kaState = .firingBurst) (op : i = .grantKa)
  | finish (burst : s.kaState = .firingBurst) (waiting : t.kaState = .waiting) (last : s.kaN = 1)
      (op : i = .tick ∨ i = .keepalive)
  | stop (stopped : t.kaState = .stopped) (op : i = .cancel)

/-- The one move of loop X, in an operation of its line that finds the cancellation (R17, R81). -/
structure LoopStop (x : Line) (i : Instr) (s t : State) : Prop where
  running : runOf x s = .running
  stopped : runOf x t = .stopped
  op : isLineOp x i
  found : s.cancel = true

/-- Each control variable keeps its value, or makes one of its moves. -/
structure Transfers (i : Instr) (s t : State) : Prop where
  cancel : t.cancel = s.cancel ∨ i = .cancel ∧ t.cancel = true
  loop : ∀ x, runOf x t = runOf x s ∨ LoopStop x i s t
  cmd : t.cmdState = s.cmdState ∨ CmdMove i s t
  ka : t.kaState = s.kaState ∨ KaMove i s t

/-! ### One operation -/

/-- An operation that leaves the loops alone does so on both lines. -/
theorem loops_same {i : Instr} {s t : State} (hH : t.runH = s.runH) (hC : t.runC = s.runC) (x : Line) :
    runOf x t = runOf x s ∨ LoopStop x i s t := by
  cases x with
  | H => exact .inl hH
  | C => exact .inl hC

/-- An operation that leaves all five variables alone. -/
theorem Transfers.of_same {i : Instr} {s t : State} (hcancel : t.cancel = s.cancel) (hH : t.runH = s.runH)
    (hC : t.runC = s.runC) (hcmd : t.cmdState = s.cmdState) (hka : t.kaState = s.kaState) : Transfers i s t :=
  ⟨.inl hcancel, loops_same hH hC, .inl hcmd, .inl hka⟩

theorem transfers_handset {i : Instr} {s t : State} (hline : isHandsetOp i) (e : HandsetEffect s t) : Transfers i s t where
  cancel := .inl (by rw [e.frame])
  loop
    | .H => e.run.imp_right fun ⟨hrunning, hstopped, hfound⟩ => ⟨hrunning, hstopped, hline, hfound⟩
    | .C => .inl (by rw [runOf_C, runOf_C, e.frame])
  cmd := .inl (by rw [e.frame])
  ka := .inl (by rw [e.frame])

theorem transfers_controller {i : Instr} {s t : State} (hline : isControllerOp i) (e : ControllerEffect s t) :
    Transfers i s t where
  cancel := .inl (by rw [e.frame])
  loop
    | .H => .inl (by rw [runOf_H, runOf_H, e.frame])
    | .C => e.run.imp_right fun ⟨hrunning, hstopped, hfound⟩ => ⟨hrunning, hstopped, hline, hfound⟩
  cmd := .inl (by rw [e.frame])
  ka := .inl (by rw [e.frame])

/-- A tick short of the watchdog's end moves the task by its timer, and either writer at the last write of its burst. -/
theorem transfers_tickRun {s t : State} (hwdt : s.wdtCnt ≠ 1) (e : tickRun s = .next t) : Transfers .tick s t := by
  obtain ⟨frame, hcmd⟩ := tickRun_frame e hwdt
  refine ⟨.inl (by rw [frame]), loops_same (by rw [frame]) (by rw [frame]), hcmd.imp_right ?_,
    (tickRun_kaState e hwdt).imp_right ?_⟩
  · exact fun ⟨hburst, hlast, hidle⟩ => .finish hburst hidle hlast (.inl rfl)
  · rintro (⟨hwaiting, hout, hfires⟩ | ⟨hburst, hlast, hwaiting⟩)
    · exact .fire hwaiting hfires hout rfl
    · exact .finish hburst hwaiting hlast (.inl rfl)

theorem transfers_cmdWrite {i : Instr} {s t : State} (op : i = .cmdSlot1 ∨ i = .cmdSlot2 ∨ i = .cmdSlot3 ∨ i = .cmdSlot4)
    (hburst : s.cmdState = .burst) (e : writeCmdBurst s = .next t) : Transfers i s t := by
  rcases writeCmdBurst_next_iff.mp e with ⟨-, rfl⟩ | ⟨hlast, rfl⟩
  · exact .of_same rfl rfl rfl rfl rfl
  · exact ⟨.inl rfl, loops_same rfl rfl, .inr (.finish hburst rfl hlast (.inr op)), .inl rfl⟩

theorem transfers_kaWrite {s t : State} (hburst : s.kaState = .firingBurst) (e : writeKaBurst s = .next t) :
    Transfers .keepalive s t := by
  rcases writeKaBurst_next_iff.mp e with ⟨-, rfl⟩ | ⟨hlast, rfl⟩
  · exact .of_same rfl rfl rfl rfl rfl
  · exact ⟨.inl rfl, loops_same rfl rfl, .inl rfl, .inr (.finish hburst rfl hlast (.inr rfl))⟩

theorem transfers_cancelRun (s : State) : Transfers .cancel s (cancelRun s) :=
  ⟨.inr ⟨rfl, cancelRun_cancel s⟩, loops_same (cancelRun_runH s) (cancelRun_runC s), .inl (cancelRun_cmdState s),
    .inr (.stop (cancelRun_kaState s) rfl)⟩

/-- R151, R160: what any operation does to the control variables, but for a reset. -/
theorem exec_transfers {i : Instr} {s t : State} (e : exec i s = .next t) (hreset : ¬ Resets i s) : Transfers i s t := by
  cases exec_effect e with
  | handset hline e => exact transfers_handset hline e
  | controller hline e => exact transfers_controller hline e
  | tickRun hi hrun e =>
    have hwdt : s.wdtCnt ≠ 1 := fun hend => hreset (.inr ⟨hi, hrun, hend⟩)
    exact hi ▸ transfers_tickRun hwdt e
  | tickDiag _ _ e => exact e ▸ .of_same rfl rfl rfl rfl rfl
  | reset hi _ => exact absurd (.inl hi) hreset
  | cmdWrite op _ hburst e => exact transfers_cmdWrite op hburst e
  | kaWrite hi _ hburst e => exact hi ▸ transfers_kaWrite hburst e
  | grantCmd hi _ _ hwait e => exact e ▸ ⟨.inl rfl, loops_same rfl rfl, .inr (.start hwait rfl hi), .inl rfl⟩
  | grantKa hi _ _ hwait e => exact e ▸ ⟨.inl rfl, loops_same rfl rfl, .inl rfl, .inr (.start hwait rfl hi)⟩
  | cancel hi _ e => exact hi ▸ e ▸ transfers_cancelRun s
  | moveTo slot _ hi _ hidle e => exact e ▸ ⟨.inl rfl, loops_same rfl rfl, .inr (.accept hidle rfl ⟨slot, hi⟩), .inl rfl⟩
  | remote _ _ _ e => exact e ▸ .of_same rfl rfl rfl rfl rfl
  | signal _ e => rw [e, signalActivity_eq]; exact .of_same rfl rfl rfl rfl rfl
  | feed _ e => exact e ▸ .of_same rfl rfl rfl rfl rfl
  | result _ _ _ e => exact e ▸ .of_same rfl rfl rfl rfl rfl
  | nothing _ _ e => exact e ▸ .of_same rfl rfl rfl rfl rfl

/-! ### Latches -/

/-- R22: a cancellation stays. -/
theorem Transfers.cancel_latched {i : Instr} {s t : State} (h : Transfers i s t) (hs : s.cancel = true) : t.cancel = true := by
  rcases h.cancel with hsame | ⟨-, ht⟩
  · exact hsame.trans hs
  · exact ht

/-- R17: a stopped loop stays stopped. -/
theorem Transfers.loop_latched {i : Instr} {s t : State} (h : Transfers i s t) (x : Line) (hs : runOf x s = .stopped) :
    runOf x t = .stopped := by
  rcases h.loop x with hsame | hstop
  · exact hsame.trans hs
  · exact hstop.stopped

/-- R17, R81: a loop that stops does so in an operation of its line that finds the cancellation. -/
theorem Transfers.loop_stops {i : Instr} {s t : State} (h : Transfers i s t) (x : Line) (hs : runOf x s = .running)
    (ht : runOf x t = .stopped) : isLineOp x i ∧ s.cancel = true := by
  rcases h.loop x with hsame | hstop
  · rw [hs, ht] at hsame
    cases hsame
  · exact ⟨hstop.op, hstop.found⟩

/-- Settles O51: each control variable either keeps its value or makes one of its moves. -/
theorem controlTransfers : Obligations.ControlTransfers := by
  intro i s t e hreset
  have h := exec_transfers e hreset
  refine ⟨h.cancel_latched, h.loop_latched .H, h.loop_latched .C, h.loop_stops .H, h.loop_stops .C, fun hcmd => ?_,
    fun hka => ?_⟩
  · cases h.cmd.resolve_left hcmd with
    | accept idle waits op => exact .inl ⟨idle, waits, op⟩
    | start waits burst op => exact .inr (.inl ⟨waits, burst, op⟩)
    | finish burst idle last op => exact .inr (.inr ⟨burst, idle, last, op⟩)
  · cases h.ka.resolve_left hka with
    | fire waiting fires out op => exact .inl ⟨waiting, fires, out, op⟩
    | start fires burst op => exact .inr (.inl ⟨fires, burst, op⟩)
    | finish burst waiting last op => exact .inr (.inr (.inl ⟨burst, waiting, last, op⟩))
    | stop stopped op => exact .inr (.inr (.inr ⟨stopped, op⟩))

end Sys2Proof.Machine

/-! What `remote_en` decides: `MOVE_TO` and nothing else (43_bridge_arbiter.md R147, 44_keepalive_watchdog.md R173). An operation
ignores part of the state if forgetting it first makes no difference to what is left of the outcome; this is shown of the shared
operations once and composed. -/

namespace Sys2Proof.Machine

/-! ### Operations that ignore part of the state -/

/-- `f` does the same with part of the state forgotten, but for that part. -/
def Ignores (forget : State → State) (f : State → Out) : Prop :=
  ∀ s, mapNext forget (f (forget s)) = mapNext forget (f s)

theorem Ignores.next {forget f : State → State} (h : ∀ s, forget (f (forget s)) = forget (f s)) :
    Ignores forget fun s => .next (f s) := fun s => congrArg Host.Outcome.next (h s)

/-- What goes on ignoring may as well go on from the forgotten state. -/
theorem Ignores.andThen_mapNext {forget : State → State} {g : State → Out} (hg : Ignores forget g) (o : Out) :
    mapNext forget (Machine.andThen (mapNext forget o) g) = mapNext forget (Machine.andThen o g) := by
  cases o with
  | next t => exact hg t
  | fault r => rfl
  | refused r => rfl

theorem Ignores.andThen {forget : State → State} {f g : State → Out} (hf : Ignores forget f) (hg : Ignores forget g) :
    Ignores forget fun s => andThen (f s) g := by
  intro s
  rw [← hg.andThen_mapNext (f (forget s)), hf s, hg.andThen_mapNext]

theorem Ignores.ite {forget : State → State} {p : State → Prop} [DecidablePred p] {f g : State → Out}
    (hp : ∀ s, p (forget s) ↔ p s) (hf : Ignores forget f) (hg : Ignores forget g) :
    Ignores forget fun s => if p s then f s else g s := by
  intro s
  simp only [hp s]
  split
  · exact hf s
  · exact hg s

theorem Ignores.countDown {forget : State → State} {c : Counter} {n : State → Nat} {f : Nat → State → Out}
    (hn : ∀ s, n (forget s) = n s) (hf : ∀ k, Ignores forget (f k)) :
    Ignores forget fun s => countDown c (n s) fun k => f k s := by
  intro s
  simp only [hn s]
  cases n s with
  | zero => rfl
  | succ k => exact hf k s

/-! ### Readers and pumps without `remote_en` -/

/-- What neither reads nor writes `remote_en` ignores it. -/
theorem ignoresRemote_of_commutes {f : State → State} (h : ∀ s, f (forgetRemote s) = forgetRemote (f s)) :
    Ignores forgetRemote fun s => .next (f s) :=
  .next fun s => by rw [h]; rfl

theorem pumpHOk_forgetRemote (f : Frame) (s : State) : pumpHOk f (forgetRemote s) = forgetRemote (pumpHOk f s) := by
  rw [pumpHOk_eq, pumpHOk_eq]
  rfl

theorem actOnDisplay_forgetRemote (f : Frame) (r : DisplayResult) (s : State) :
    actOnDisplay f r (forgetRemote s) = forgetRemote (actOnDisplay f r s) := by
  cases r with
  | value m e bad => cases bad <;> rfl
  | noHeight | reset | fault | formatError => rfl

theorem passThrough_forgetRemote (f : Frame) (s : State) : passThrough f (forgetRemote s) = forgetRemote (passThrough f s) := by
  rw [passThrough_eq, passThrough_eq]
  rfl

theorem pumpCOk_forgetRemote (f : Frame) (s : State) : pumpCOk f (forgetRemote s) = forgetRemote (pumpCOk f s) := by
  have hfeed : feed (forgetRemote s) = forgetRemote (feed s) := rfl
  rw [pumpCOk, hfeed, actOnDisplay_forgetRemote, passThrough_forgetRemote]
  rfl

theorem pump_forgetRemote (x : Line) (o : ReaderOutcome) (s : State) :
    pump x o (forgetRemote s) = forgetRemote (pump x o s) := by
  cases o with
  | ok f =>
    cases x with
    | H => exact pumpHOk_forgetRemote f s
    | C => exact pumpCOk_forgetRemote f s
  | long | short | readError | canceled => rfl

theorem setBuf_forgetRemote (x : Line) (b : List Byte) (s : State) :
    setBuf x b (forgetRemote s) = forgetRemote (setBuf x b s) := by cases x <;> rfl

theorem setRun_forgetRemote (x : Line) (r : RunState) (s : State) :
    setRun x r (forgetRemote s) = forgetRemote (setRun x r s) := by cases x <;> rfl

theorem bufOf_forgetRemote (x : Line) (s : State) : bufOf x (forgetRemote s) = bufOf x s := by cases x <;> rfl

theorem loopRuns_forgetRemote (x : Line) (s : State) : loopRuns x (forgetRemote s) = loopRuns x s := by cases x <;> rfl

theorem cancelPoll_forgetRemote (x : Line) (s : State) : cancelPoll x (forgetRemote s) = forgetRemote (cancelPoll x s) := by
  rw [cancelPoll, setBuf_forgetRemote, setRun_forgetRemote, pump_forgetRemote]
  rfl

theorem readChunk_forgetRemote (x : Line) (chunk : List Byte) (s : State) :
    readChunk x chunk (forgetRemote s) = forgetRemote (readChunk x chunk s) := by
  simp only [readChunk, bufOf_forgetRemote, setBuf_forgetRemote, pump_forgetRemote, apply_ite forgetRemote]

/-- A loop that finds the cancellation, or else does `f`, commutes where `f` does. -/
theorem loop_forgetRemote (x : Line) {f : State → State} (hf : ∀ s, f (forgetRemote s) = forgetRemote (f s)) (s : State) :
    (if loopRuns x (forgetRemote s) then (if (forgetRemote s).cancel then cancelPoll x (forgetRemote s) else f (forgetRemote s))
      else forgetRemote s) =
    forgetRemote (if loopRuns x s then (if s.cancel then cancelPoll x s else f s) else s) := by
  have hcancel : (forgetRemote s).cancel = s.cancel := rfl
  simp only [loopRuns_forgetRemote, hcancel, cancelPoll_forgetRemote, hf, apply_ite forgetRemote]

theorem pollLine_forgetRemote (x : Line) (chunk : List Byte) (s : State) :
    pollLine x chunk (forgetRemote s) = forgetRemote (pollLine x chunk s) :=
  loop_forgetRemote x (readChunk_forgetRemote x chunk) s

theorem errorLine_forgetRemote (x : Line) (s : State) : errorLine x (forgetRemote s) = forgetRemote (errorLine x s) :=
  loop_forgetRemote x (f := fun s => pump x (.readError (bufOf x s)) (setBuf x [] s))
    (fun s => by rw [bufOf_forgetRemote, setBuf_forgetRemote, pump_forgetRemote]) s

theorem ignoresRemote_rxEvent (x : Line) (chunk : List Byte) : Ignores forgetRemote (rxEvent x chunk) :=
  .ite (fun _ => Iff.rfl) (ignoresRemote_of_commutes (pollLine_forgetRemote x chunk)) fun _ => rfl

theorem ignoresRemote_serialPolls (x : Line) (bs : List Byte) : Ignores forgetRemote (serialPolls x bs) := by
  induction bs with
  | nil => exact fun _ => rfl
  | cons b rest ih => exact (ignoresRemote_rxEvent x [b]).andThen ih

theorem ignoresRemote_frameArrives (x : Line) (f : Frame) : Ignores forgetRemote (frameArrives x f) :=
  .ite (fun _ => Iff.rfl) (ignoresRemote_rxEvent x f.bytes) (ignoresRemote_serialPolls x f.bytes)

/-! ### Bursts and ticks without `remote_en` -/

theorem signalActivity_forgetRemote (s : State) : signalActivity (forgetRemote s) = forgetRemote (signalActivity s) := by
  rw [signalActivity_eq, signalActivity_eq]
  rfl

theorem ignoresRemote_writeCmdBurst : Ignores forgetRemote writeCmdBurst := by
  refine .countDown (fun _ => rfl) fun n => ignoresRemote_of_commutes fun s => ?_
  dsimp only
  split
  · rw [endCmdBurst_eq, endCmdBurst_eq]
    rfl
  · rfl

theorem ignoresRemote_writeKaBurst : Ignores forgetRemote writeKaBurst := by
  refine .countDown (fun _ => rfl) fun n => ignoresRemote_of_commutes fun s => ?_
  dsimp only
  split <;> rfl

theorem ignoresRemote_cmdFrameWrite (sl : Slot) : Ignores forgetRemote (cmdFrameWrite sl) :=
  .ite (fun _ => Iff.rfl) ignoresRemote_writeCmdBurst fun _ => rfl

theorem ignoresRemote_kaFrameWrite : Ignores forgetRemote kaFrameWrite :=
  .ite (fun _ => Iff.rfl) ignoresRemote_writeKaBurst fun _ => rfl

/-- The three parts of a tick after the watchdog, each of which does nothing but in one state of its task. -/
theorem kaIntervalTick_ite : kaIntervalTick = fun s =>
    if s.kaState = .waiting then
      countDown .kaTimer s.kaTimer fun n => .next { s with kaTimer := n, kaState := if n = 0 then .firingWait else .waiting }
    else .next s := by
  funext s
  unfold kaIntervalTick
  split <;> simp [*]

theorem cmdTick_ite : cmdTick = fun s =>
    if s.cmdState = .burst then
      countDown .cmdSp s.cmdSp fun n => if n = 0 then writeCmdBurst { s with cmdSp := 0 } else .next { s with cmdSp := n }
    else .next s := by
  funext s
  unfold cmdTick
  split <;> simp [*]

theorem kaBurstTick_ite : kaBurstTick = fun s =>
    if s.kaState = .firingBurst then
      countDown .kaSp s.kaSp fun n => if n = 0 then writeKaBurst { s with kaSp := 0 } else .next { s with kaSp := n }
    else .next s := by
  funext s
  unfold kaBurstTick
  split <;> simp [*]

theorem ignoresRemote_kaIntervalTick : Ignores forgetRemote kaIntervalTick := by
  rw [kaIntervalTick_ite]
  exact .ite (fun _ => Iff.rfl) (.countDown (fun _ => rfl) fun _ _ => rfl) fun _ => rfl

theorem ignoresRemote_cmdTick : Ignores forgetRemote cmdTick := by
  rw [cmdTick_ite]
  refine .ite (fun _ => Iff.rfl) (.countDown (fun _ => rfl) fun n => ?_) fun _ => rfl
  exact .ite (fun _ => Iff.rfl) (fun s => ignoresRemote_writeCmdBurst { s with cmdSp := 0 }) fun _ => rfl

theorem ignoresRemote_kaBurstTick : Ignores forgetRemote kaBurstTick := by
  rw [kaBurstTick_ite]
  refine .ite (fun _ => Iff.rfl) (.countDown (fun _ => rfl) fun n => ?_) fun _ => rfl
  exact .ite (fun _ => Iff.rfl) (fun s => ignoresRemote_writeKaBurst { s with kaSp := 0 }) fun _ => rfl

/-- R171: the four parts of a tick, one after the other. -/
theorem ignoresRemote_tickRun : Ignores forgetRemote tickRun := by
  refine .countDown (fun _ => rfl) fun n => .ite (fun _ => Iff.rfl) (fun _ => rfl) ?_
  intro s
  exact ((ignoresRemote_kaIntervalTick.andThen ignoresRemote_cmdTick).andThen ignoresRemote_kaBurstTick) { s with wdtCnt := n }

/-! ### Operations -/

/-- An operation with one meaning in each mode. -/
theorem ignoresRemote_byMode {f g : State → Out} (hf : Ignores forgetRemote f) (hg : Ignores forgetRemote g) :
    Ignores forgetRemote fun s => match s.mode with
      | .run => f s
      | .diag => g s := by
  intro s
  have hmode : (forgetRemote s).mode = s.mode := rfl
  simp only [hmode]
  cases s.mode with
  | run => exact hf s
  | diag => exact hg s

theorem cancelRun_forgetRemote (s : State) : cancelRun (forgetRemote s) = forgetRemote (cancelRun s) := by
  by_cases hburst : s.kaState = .firingBurst
  · rw [cancelRun, cancelRun, cutKaBurst_cuts hburst, cutKaBurst_cuts (s := forgetRemote s) hburst]
    rfl
  · rw [cancelRun, cancelRun, cutKaBurst_same hburst, cutKaBurst_same (s := forgetRemote s) hburst]
    rfl

theorem ignoresRemote_execTick : Ignores forgetRemote execTick :=
  ignoresRemote_byMode (g := fun s => .next (tickDiag s)) ignoresRemote_tickRun fun _ => rfl

theorem ignoresRemote_execCancel : Ignores forgetRemote execCancel :=
  ignoresRemote_byMode (g := .next) (ignoresRemote_of_commutes cancelRun_forgetRemote) fun _ => rfl

theorem ignoresRemote_execSetRemoteEnabled (b : Bool) : Ignores forgetRemote (execSetRemoteEnabled b) :=
  ignoresRemote_byMode (f := fun s => .next { s with remoteEn := b }) (g := .next) (fun _ => rfl) fun _ => rfl

/-- A grant: what it does, where it is enabled. -/
theorem ignoresRemote_whereEnabled {p : State → Bool} {f : State → State} (hp : ∀ s, p (forgetRemote s) = p s)
    (hf : ∀ s, f (forgetRemote s) = forgetRemote (f s)) : Ignores forgetRemote fun s => .next (if p s then f s else s) :=
  ignoresRemote_of_commutes fun s => by simp only [hp, hf, apply_ite forgetRemote]

theorem ignoresRemote_execGrantCmd : Ignores forgetRemote execGrantCmd :=
  ignoresRemote_whereEnabled (p := cmdGrantable) (fun _ => rfl) fun _ => rfl

theorem ignoresRemote_execGrantKa : Ignores forgetRemote execGrantKa :=
  ignoresRemote_whereEnabled (p := kaGrantable) (fun _ => rfl) fun _ => rfl

/-- Settles O55, operation by operation: a reset and `SET_REMOTE_ENABLED` write the bit without reading it, and no other part of
the block knows it. -/
theorem remoteBitGatesOnlyMoveTo : Obligations.RemoteBitGatesOnlyMoveTo := by
  intro i s hi
  cases i with
  | moveTo slot => exact absurd rfl (hi slot)
  | dispNoheight | dispReset | dispFault | dispValue => exact ignoresRemote_frameArrives .C _ s
  | button => exact ignoresRemote_frameArrives .H _ s
  | cmdSlot1 => exact ignoresRemote_cmdFrameWrite .s1 s
  | cmdSlot2 => exact ignoresRemote_cmdFrameWrite .s2 s
  | cmdSlot3 => exact ignoresRemote_cmdFrameWrite .s3 s
  | cmdSlot4 => exact ignoresRemote_cmdFrameWrite .s4 s
  | keepalive => exact ignoresRemote_kaFrameWrite s
  | rxH chunk => exact ignoresRemote_rxEvent .H chunk s
  | rxC chunk => exact ignoresRemote_rxEvent .C chunk s
  | rxerrH => exact ignoresRemote_of_commutes (errorLine_forgetRemote .H) s
  | rxerrC => exact ignoresRemote_of_commutes (errorLine_forgetRemote .C) s
  | tick => exact ignoresRemote_execTick s
  | setRemoteEnabled b => exact ignoresRemote_execSetRemoteEnabled b s
  | cancel => exact ignoresRemote_execCancel s
  | grantCmd => exact ignoresRemote_execGrantCmd s
  | grantKa => exact ignoresRemote_execGrantKa s
  | encodeCommand slot =>
    cases hcode : encodeCommand slot with
    | ok f => rw [exec_encodeCommand_ok hcode, exec_encodeCommand_ok hcode]; rfl
    | error err => rw [exec_encodeCommand_error hcode, exec_encodeCommand_error hcode]; rfl
  | signalActivity => exact ignoresRemote_of_commutes signalActivity_forgetRemote s
  | reset | wdtFeed | currentPosition | checksum | digitByte | decodeButton | decodeDisplay | encodeKeepalive => rfl

end Sys2Proof.Machine

/-! The course of a command burst: five writes, `SPACING` ticks apart, from the grant to the release of the bus
(43_bridge_arbiter.md R144 to R146, 44_keepalive_watchdog.md R175). -/

namespace Sys2Proof.Machine

/-! ### Ticks in a row -/

theorem ticks_one (s : State) : ticks 1 s = exec .tick s := by
  rw [ticks_succ]
  show andThen (exec .tick s) (ticks 0) = exec .tick s
  cases exec .tick s <;> rfl

theorem ticks_succ_of_next {n : Nat} {s t : State} (h : ticks n s = .next t) : ticks (n + 1) s = exec .tick t := by
  rw [ticks_add, h, andThen_next, ticks_one]

/-! ### Where a burst stands -/

/-- R140: the two writers do not hold the bus together. -/
theorem Inv.kaState_ne_of_cmdBurst {s : State} (h : Inv s) (hburst : s.cmdState = .burst) : s.kaState ≠ .firingBurst := by
  intro hka
  have hcmdBus := h.cmdHolds.mpr hburst
  rw [h.kaHolds.mpr hka] at hcmdBus
  cases hcmdBus

/-- R140, R21: in a command burst the sequencer holds the bus, and the line is high. -/
theorem Inv.bus_of_cmdBurst {s : State} (h : Inv s) (hburst : s.cmdState = .burst) : s.busOwner = .cmd ∧ s.act = true := by
  have hbus := h.cmdHolds.mpr hburst
  exact ⟨hbus, h.actHigh.mpr (by simp [hbus])⟩

/-- In state `t` the command burst granted at `s` has run for `rounds` spacings and `since` ticks more: that many writes have
followed the first, and that many ticks the last of them. -/
structure BurstAt (s : State) (rounds since : Nat) (t : State) : Prop where
  inv : Inv t
  run : t.mode = .run
  cfg : t.cfg = s.cfg
  slot : t.cmdSlot = s.cmdSlot
  burst : t.cmdState = .burst
  wdt : t.wdtCnt + (rounds * s.cfg.spacing + since) = s.wdtCnt
  writesLeft : t.cmdN + rounds = 4
  ticksLeft : t.cmdSp + since = s.cfg.spacing
  trace : t.trace = s.trace ++ .act true :: List.replicate (1 + rounds) (.txCtrl (slotFrame s.cmdSlot))

/-- What the burst leaves behind: five writes, the line lowered, the bus released, `Ok` returned. -/
structure BurstDone (s t : State) : Prop where
  trace : t.trace = s.trace ++ .act true :: (List.replicate 5 (.txCtrl (slotFrame s.cmdSlot)) ++ [.act false, .ret .ok])
  bus : t.busOwner = .free
  act : t.act = false
  idle : t.cmdState = .idle

section
variable {s t : State} {rounds since : Nat}

theorem BurstAt.bounds (h : BurstAt s rounds since t) : rounds ≤ 3 ∧ since < s.cfg.spacing := by
  obtain ⟨hwrite, htick⟩ := h.inv.cmdCounts h.burst
  have hwrites := h.writesLeft
  have hticks := h.ticksLeft
  omega

/-- A watchdog window longer than the burst does not end in it. -/
theorem BurstAt.two_le_wdtCnt (h : BurstAt s rounds since t) (hwindow : 4 * s.cfg.spacing < s.wdtCnt) : 2 ≤ t.wdtCnt := by
  obtain ⟨hrounds, hsince⟩ := h.bounds
  have helapsed : (rounds + 1) * s.cfg.spacing ≤ 4 * s.cfg.spacing := Nat.mul_le_mul_right _ (by omega)
  rw [Nat.succ_mul] at helapsed
  have hwdt := h.wdt
  omega

/-- In the burst a tick is the interval part and then the command's tick (R171). -/
theorem BurstAt.tick (h : BurstAt s rounds since t) (hwindow : 4 * s.cfg.spacing < s.wdtCnt) :
    exec .tick t = cmdTick { afterInterval t with wdtCnt := t.wdtCnt - 1 } :=
  exec_tick_outside_kaBurst h.run (h.two_le_wdtCnt hwindow) (h.inv.kaState_ne_of_cmdBurst h.burst) h.inv.timerCounts

/-- R144: the grant makes the first write. -/
theorem burstAt_start (hinv : Inv s) (hrun : s.mode = .run) (hfree : s.busOwner = .free) : BurstAt s 0 0 (startCmdBurst s) where
  inv := inv_startCmdBurst hinv hrun hfree
  run := hrun
  cfg := rfl
  slot := rfl
  burst := rfl
  wdt := by simp
  writesLeft := rfl
  ticksLeft := rfl
  trace := by simp

/-- R145: a tick short of the spacing's end only waits. -/
theorem BurstAt.wait (h : BurstAt s rounds since t) (hwindow : 4 * s.cfg.spacing < s.wdtCnt)
    (hshort : since + 1 < s.cfg.spacing) : ∃ u, exec .tick t = .next u ∧ BurstAt s rounds (since + 1) u := by
  have hleft := h.ticksLeft
  have hwdt := h.wdt
  have hcounts := h.two_le_wdtCnt hwindow
  have hsp : 2 ≤ t.cmdSp := by omega
  have htick := (h.tick hwindow).trans (cmdTick_waits (by simpa using h.burst) (by simpa using hsp))
  exact ⟨_, htick, {
    inv := exec_keeps_inv h.inv htick
    run := by simpa using h.run
    cfg := by simpa using h.cfg
    slot := by simpa using h.slot
    burst := by simpa using h.burst
    wdt := by dsimp only; omega
    writesLeft := by simpa using h.writesLeft
    ticksLeft := by simp only [afterInterval_cmdSp]; omega
    trace := by simpa using h.trace }⟩

/-- R145: at the spacing's end the next write is made, short of the fifth. -/
theorem BurstAt.write (h : BurstAt s rounds since t) (hwindow : 4 * s.cfg.spacing < s.wdtCnt)
    (hend : since + 1 = s.cfg.spacing) (hmore : rounds < 3) :
    ∃ u, exec .tick t = .next u ∧ BurstAt s (rounds + 1) 0 u := by
  have hleft := h.writesLeft
  have hwdt := h.wdt
  have hcounts := h.two_le_wdtCnt hwindow
  have hsp : t.cmdSp = 1 := by have := h.ticksLeft; omega
  have hn : 2 ≤ t.cmdN := by omega
  have htick := (h.tick hwindow).trans
    (cmdTick_writes_more (by simpa using h.burst) (by simpa using hsp) (by simpa using hn))
  exact ⟨_, htick, {
    inv := exec_keeps_inv h.inv htick
    run := by simpa using h.run
    cfg := by simpa using h.cfg
    slot := by simpa using h.slot
    burst := by simpa using h.burst
    wdt := by rw [Nat.succ_mul]; dsimp only; omega
    writesLeft := by simp only [afterInterval_cmdN]; omega
    ticksLeft := by simp [h.cfg]
    trace := by simp [h.trace, h.slot, ← Nat.add_assoc, List.replicate_succ'] }⟩

/-- R146: the fifth write ends the burst. -/
theorem BurstAt.finish (h : BurstAt s 3 since t) (hwindow : 4 * s.cfg.spacing < s.wdtCnt)
    (hend : since + 1 = s.cfg.spacing) : ∃ u, exec .tick t = .next u ∧ BurstDone s u := by
  have hsp : t.cmdSp = 1 := by have := h.ticksLeft; omega
  have hn : t.cmdN = 1 := by have := h.writesLeft; omega
  have htick := (h.tick hwindow).trans
    (cmdTick_writes_last (by simpa using h.burst) (by simpa using hsp) (by simpa using hn))
  refine ⟨_, htick, ?_, rfl, rfl, rfl⟩
  simp [h.trace, h.slot, List.replicate_succ]

/-! ### The course of the burst -/

/-- Each of the first `4 SPACING` ticks finds the burst as far on as the ticks before it say. -/
theorem ticks_burstAt (hinv : Inv s) (hrun : s.mode = .run) (hfree : s.busOwner = .free)
    (hwindow : 4 * s.cfg.spacing < s.wdtCnt) {n : Nat} (hn : n < 4 * s.cfg.spacing) :
    ∃ rounds since t, n = rounds * s.cfg.spacing + since ∧ ticks n (startCmdBurst s) = .next t ∧ BurstAt s rounds since t := by
  induction n with
  | zero => exact ⟨0, 0, startCmdBurst s, by simp, rfl, burstAt_start hinv hrun hfree⟩
  | succ n ih =>
    obtain ⟨rounds, since, t, helapsed, hticks, h⟩ := ih (by omega)
    obtain ⟨hrounds, hsince⟩ := h.bounds
    rw [ticks_succ_of_next hticks]
    by_cases hend : since + 1 = s.cfg.spacing
    · have hmore : rounds < 3 := by
        by_contra hlast
        have hthree : rounds = 3 := by omega
        subst hthree
        omega
      obtain ⟨u, htick, hu⟩ := h.write hwindow hend hmore
      exact ⟨rounds + 1, 0, u, by rw [Nat.succ_mul]; omega, htick, hu⟩
    · obtain ⟨u, htick, hu⟩ := h.wait hwindow (by omega)
      exact ⟨rounds, since + 1, u, by omega, htick, hu⟩

/-- The tick at `4 SPACING` makes the fifth write. -/
theorem ticks_burstDone (hinv : Inv s) (hrun : s.mode = .run) (hfree : s.busOwner = .free)
    (hwindow : 4 * s.cfg.spacing < s.wdtCnt) :
    ∃ t, ticks (4 * s.cfg.spacing) (startCmdBurst s) = .next t ∧ BurstDone s t := by
  have hpos := one_le_spacing hinv.params
  obtain ⟨rounds, since, t, helapsed, hticks, h⟩ :=
    ticks_burstAt hinv hrun hfree hwindow (n := 4 * s.cfg.spacing - 1) (by omega)
  obtain ⟨hrounds, hsince⟩ := h.bounds
  have hthree : rounds = 3 := by interval_cases rounds <;> omega
  subst hthree
  obtain ⟨u, htick, hu⟩ := h.finish hwindow (by omega)
  refine ⟨u, ?_, hu⟩
  rw [← htick, ← ticks_succ_of_next hticks, Nat.sub_add_cancel (by omega)]

end

/-- Settles O57: `n` ticks are `n / SPACING` rounds and a rest, at `4 SPACING` the burst is done. -/
theorem commandBurstTiming : Obligations.CommandBurstTiming := by
  intro s hinv hrun hfree hwait hwindow
  rw [exec_grantCmd_enabled ((cmdGrantable_iff s).mpr ⟨hrun, hfree, hwait⟩)]
  refine ⟨fun n hn => ?_, ?_⟩
  · obtain ⟨rounds, since, t, helapsed, hticks, h⟩ := ticks_burstAt hinv hrun hfree hwindow hn
    have hdiv : n / s.cfg.spacing = rounds :=
      Nat.div_eq_of_lt_le (by omega) (by rw [Nat.succ_mul]; have := h.bounds; omega)
    exact ⟨t, hticks, hdiv ▸ h.trace, h.inv.bus_of_cmdBurst h.burst⟩
  · obtain ⟨t, hticks, h⟩ := ticks_burstDone hinv hrun hfree hwindow
    exact ⟨t, hticks, h.trace, h.bus, h.act, h.idle⟩

end Sys2Proof.Machine

/-! The keep-alive task and the watchdog: the activity signal, cancellation, the ticks of the burst, of the interval and of mode
`Diag`, and how long each takes (44_keepalive_watchdog.md R160 to R175). -/

namespace Sys2Proof.Machine

/-! ### Activity, feed, cancellation -/

theorem exec_cancel_run {s : State} (hrun : s.mode = .run) : exec .cancel s = .next (cancelRun s) := by
  simp only [exec, execCancel, hrun]

theorem exec_cancel_diag {s : State} (hdiag : s.mode = .diag) : exec .cancel s = .next s := by
  simp only [exec, execCancel, hdiag]

theorem exec_signalActivity (s : State) : exec .signalActivity s = .next (signalActivity s) := rfl

theorem exec_tick_diag {s : State} (hdiag : s.mode = .diag) : exec .tick s = .next (tickDiag s) := by
  simp only [exec, execTick, hdiag]

/-! ### Ticks by the state of the task -/

theorem afterInterval_waits {s : State} (hwait : s.kaState = .waiting) (htimer : 2 ≤ s.kaTimer) :
    afterInterval s = { s with kaTimer := s.kaTimer - 1 } := by
  rw [afterInterval, if_pos hwait, if_neg (by omega), ← hwait]

/-- R162: `KA_FIRE`. -/
theorem afterInterval_fires {s : State} (hwait : s.kaState = .waiting) (htimer : s.kaTimer = 1) :
    afterInterval s = { s with kaState := .firingWait, kaTimer := 0 } := by
  rw [afterInterval, if_pos hwait, if_pos htimer, htimer]

theorem afterInterval_elsewhere {s : State} (h : s.kaState ≠ .waiting) : afterInterval s = s := if_neg h

/-- R161, R168: outside the bursts and before the watchdog's end, the interval and the watchdog are all that counts. -/
theorem exec_tick_quiet {s : State} (hrun : s.mode = .run) (hwdt : 2 ≤ s.wdtCnt) (hcmd : s.cmdState ≠ .burst)
    (hka : s.kaState ≠ .firingBurst) (htimer : s.kaState = .waiting → 1 ≤ s.kaTimer) :
    exec .tick s = .next { afterInterval s with wdtCnt := s.wdtCnt - 1 } := by
  rw [exec_tick_outside_kaBurst hrun hwdt hka htimer]
  exact cmdTick_idle (by simpa using hcmd)

/-- R171: in a keep-alive burst and before the watchdog's end, the tick is the keep-alive burst's tick: the interval does not run, and
the sequencer has no burst of its own. -/
theorem exec_tick_in_kaBurst {s : State} (hrun : s.mode = .run) (hwdt : 2 ≤ s.wdtCnt) (hcmd : s.cmdState ≠ .burst)
    (hka : s.kaState = .firingBurst) : exec .tick s = kaBurstTick { s with wdtCnt := s.wdtCnt - 1 } := by
  have hwait : s.kaState ≠ .waiting := by simp [hka]
  rw [exec_tick_run hrun, tickRun_counts hwdt,
    kaIntervalTick_eq (s := { s with wdtCnt := s.wdtCnt - 1 }) fun h => absurd h hwait, andThen_next, afterInterval_wdt,
    afterInterval_elsewhere hwait, cmdTick_idle (s := { s with wdtCnt := s.wdtCnt - 1 }) hcmd, andThen_next]

/-- R163: the tick that runs the spacing out, with a write to come after its own. -/
theorem kaBurstTick_writes_more {s : State} (hburst : s.kaState = .firingBurst) (hsp : s.kaSp = 1) (hn : 2 ≤ s.kaN) :
    kaBurstTick s = .next
      { s with kaSp := s.cfg.spacing, kaN := s.kaN - 1, trace := s.trace ++ [.txCtrl encodeKeepalive] } := by
  rw [kaBurstTick_writes hburst hsp, writeKaBurst_more (s := { s with kaSp := 0 }) hn]

/-- R164: the tick that runs the spacing out before the last write. -/
theorem kaBurstTick_writes_last {s : State} (hburst : s.kaState = .firingBurst) (hsp : s.kaSp = 1) (hn : s.kaN = 1) :
    kaBurstTick s = .next
      { s with
        kaSp := 0, kaN := 0, act := false, busOwner := .free, kaState := .waiting, kaTimer := s.cfg.kaInterval
        kaPending := false, trace := s.trace ++ [.txCtrl encodeKeepalive, .act false] } := by
  rw [kaBurstTick_writes hburst hsp, writeKaBurst_last (s := { s with kaSp := 0 }) hn]

/-! ### The obligations about one operation -/

/-- Settles O39: by mode, and in `Run` by whether there is a burst to cut off. -/
theorem cancelStopsKeepAlive : Obligations.CancelStopsKeepAlive := by
  refine fun s => ⟨fun hrun hburst => ?_, fun hrun hburst => ?_, exec_cancel_diag⟩
  · rw [exec_cancel_run hrun, cancelRun, cutKaBurst_cuts hburst]
  · rw [exec_cancel_run hrun, cancelRun, cutKaBurst_same hburst]

/-- Settles O41: the two cases of the signal; the feed has one. -/
theorem activitySignalAndFeed : Obligations.ActivitySignalAndFeed :=
  ⟨fun s hwait => by rw [exec_signalActivity, signalActivity_waiting hwait],
    fun s hwait => by rw [exec_signalActivity, signalActivity_elsewhere hwait],
    fun _ => rfl⟩

/-- Settles O46: in `Diag` the tick is the feed and the report. -/
theorem diagTick : Obligations.DiagTick := fun _ hdiag => exec_tick_diag hdiag

/-- Settles O43: of the tick's four parts the watchdog and the interval are left. -/
theorem quietTick : Obligations.QuietTick := fun _ => exec_tick_quiet

/-- Settles O45: the tick is the keep-alive burst's tick: it waits, writes, or writes the last. -/
theorem keepAliveBurstTick : Obligations.KeepAliveBurstTick := by
  intro s hrun hwdt hcmd hka _
  have hburst : ({ s with wdtCnt := s.wdtCnt - 1 } : State).kaState = .firingBurst := hka
  rw [exec_tick_in_kaBurst hrun hwdt hcmd hka]
  exact ⟨kaBurstTick_waits hburst, kaBurstTick_writes_more hburst, kaBurstTick_writes_last hburst⟩

/-! ### The interval -/

/-- R161: a tick short of the timer's end, and of the watchdog's. -/
theorem exec_tick_waits {s : State} (hrun : s.mode = .run) (hwait : s.kaState = .waiting) (hcmd : s.cmdState ≠ .burst)
    (htimer : 2 ≤ s.kaTimer) (hwdt : 2 ≤ s.wdtCnt) :
    exec .tick s = .next { s with kaTimer := s.kaTimer - 1, wdtCnt := s.wdtCnt - 1 } := by
  rw [exec_tick_quiet hrun hwdt hcmd (by simp [hwait]) fun _ => by omega, afterInterval_waits hwait htimer]

/-- R162: the tick at the timer's end. -/
theorem exec_tick_fires {s : State} (hrun : s.mode = .run) (hwait : s.kaState = .waiting) (hcmd : s.cmdState ≠ .burst)
    (htimer : s.kaTimer = 1) (hwdt : 2 ≤ s.wdtCnt) :
    exec .tick s = .next { s with kaState := .firingWait, kaTimer := 0, wdtCnt := s.wdtCnt - 1 } := by
  rw [exec_tick_quiet hrun hwdt hcmd (by simp [hwait]) fun _ => by omega, afterInterval_fires hwait htimer]

theorem ticks_wait {s : State} (hrun : s.mode = .run) (hwait : s.kaState = .waiting) (hcmd : s.cmdState ≠ .burst)
    (hwindow : s.kaTimer < s.wdtCnt) {n : Nat} (hn : n < s.kaTimer) :
    ticks n s = .next { s with kaTimer := s.kaTimer - n, wdtCnt := s.wdtCnt - n } := by
  induction n with
  | zero => rfl
  | succ n ih =>
    have htimer : 2 ≤ s.kaTimer - n := by omega
    have hwdt : 2 ≤ s.wdtCnt - n := by omega
    rw [ticks_succ_of_next (ih (by omega))]
    exact exec_tick_waits hrun hwait hcmd htimer hwdt

/-- Settles O56: the timer counts down tick by tick, and the tick that finds it at 1 fires the task. -/
theorem keepAliveExpiresExactly : Obligations.KeepAliveExpiresExactly := by
  intro s hrun hwait hcmd htimer hwindow
  refine ⟨fun n => ticks_wait hrun hwait hcmd hwindow, ?_⟩
  obtain ⟨k, hk⟩ := Nat.exists_eq_add_of_le' htimer
  have hlast : s.kaTimer - k = 1 := by omega
  have hwdt : 2 ≤ s.wdtCnt - k := by omega
  rw [hk, ticks_succ_of_next (ticks_wait hrun hwait hcmd hwindow (n := k) (by omega))]
  exact exec_tick_fires hrun hwait hcmd hlast hwdt

/-! ### The course of a keep-alive burst -/

/-- The keep-alive burst granted at `s`, after `rounds` spacings and `since` ticks more: that many writes have followed the first, and
that many ticks the last of them. Nothing else moves but the watchdog's count. -/
def kaBurstAfter (s : State) (rounds since : Nat) : State :=
  { startKaBurst s with
    wdtCnt := s.wdtCnt - (rounds * s.cfg.spacing + since), kaN := 4 - rounds, kaSp := s.cfg.spacing - since
    trace := s.trace ++ .act true :: List.replicate (1 + rounds) (.txCtrl encodeKeepalive) }

/-- R163: the grant makes the first write. -/
theorem kaBurstAfter_zero (s : State) : kaBurstAfter s 0 0 = startKaBurst s := by
  rw [startKaBurst_eq]
  simp [kaBurstAfter, startKaBurst_eq]

section
variable {s : State} {rounds since : Nat}

/-- Before the watchdog's end a tick of the burst is the burst's own tick (R171). -/
theorem exec_tick_kaBurstAfter (hrun : s.mode = .run) (hcmd : s.cmdState ≠ .burst)
    (hwindow : rounds * s.cfg.spacing + since + 1 < s.wdtCnt) :
    exec .tick (kaBurstAfter s rounds since) =
      kaBurstTick { kaBurstAfter s rounds since with wdtCnt := s.wdtCnt - (rounds * s.cfg.spacing + since) - 1 } :=
  exec_tick_in_kaBurst hrun (show 2 ≤ s.wdtCnt - (rounds * s.cfg.spacing + since) by omega) hcmd rfl

/-- R163: a tick short of the spacing's end only waits. -/
theorem kaBurstAfter_wait (hrun : s.mode = .run) (hcmd : s.cmdState ≠ .burst)
    (hwindow : rounds * s.cfg.spacing + since + 1 < s.wdtCnt) (hshort : since + 1 < s.cfg.spacing) :
    exec .tick (kaBurstAfter s rounds since) = .next (kaBurstAfter s rounds (since + 1)) := by
  have hsp : 2 ≤ s.cfg.spacing - since := by omega
  rw [exec_tick_kaBurstAfter hrun hcmd hwindow]
  exact kaBurstTick_waits rfl hsp

/-- R163: at the spacing's end the next write is made, short of the fifth. -/
theorem kaBurstAfter_write (hrun : s.mode = .run) (hcmd : s.cmdState ≠ .burst)
    (hwindow : rounds * s.cfg.spacing + since + 1 < s.wdtCnt) (hend : since + 1 = s.cfg.spacing) (hmore : rounds < 3) :
    exec .tick (kaBurstAfter s rounds since) = .next (kaBurstAfter s (rounds + 1) 0) := by
  have hsp : s.cfg.spacing - since = 1 := by omega
  have hn : 2 ≤ 4 - rounds := by omega
  have hwdt : s.wdtCnt - ((rounds + 1) * s.cfg.spacing + 0) = s.wdtCnt - (rounds * s.cfg.spacing + since) - 1 := by
    rw [Nat.succ_mul]; omega
  rw [exec_tick_kaBurstAfter hrun hcmd hwindow]
  refine (kaBurstTick_writes_more rfl hsp hn).trans ?_
  simp only [kaBurstAfter, hwdt, startKaBurst_cfg, Nat.sub_zero, ← Nat.add_assoc, List.replicate_succ', List.append_assoc,
    List.cons_append, Nat.sub_sub]

/-- R164: the fifth write ends the burst. -/
theorem kaBurstAfter_finish (hrun : s.mode = .run) (hcmd : s.cmdState ≠ .burst)
    (hwindow : 3 * s.cfg.spacing + since + 1 < s.wdtCnt) (hend : since + 1 = s.cfg.spacing) :
    ∃ t, exec .tick (kaBurstAfter s 3 since) = .next t ∧
      t.trace = s.trace ++ .act true :: (List.replicate 5 (.txCtrl encodeKeepalive) ++ [.act false]) ∧
      t.busOwner = .free ∧ t.act = false ∧ t.kaState = .waiting ∧ t.kaTimer = s.cfg.kaInterval := by
  have hsp : s.cfg.spacing - since = 1 := by omega
  rw [exec_tick_kaBurstAfter hrun hcmd hwindow]
  refine ⟨_, kaBurstTick_writes_last rfl hsp rfl, ?_, rfl, rfl, rfl, rfl⟩
  simp [kaBurstAfter, List.replicate_succ]

/-- The waits of one round. -/
theorem ticks_kaBurst_since (hrun : s.mode = .run) (hcmd : s.cmdState ≠ .burst)
    (hwindow : rounds * s.cfg.spacing + since < s.wdtCnt) (hshort : since < s.cfg.spacing) :
    ticks since (kaBurstAfter s rounds 0) = .next (kaBurstAfter s rounds since) := by
  induction since with
  | zero => rfl
  | succ k ih =>
    rw [ticks_succ_of_next (ih (by omega) (by omega))]
    exact kaBurstAfter_wait hrun hcmd hwindow hshort

/-- The whole rounds: each is `SPACING - 1` waits and a write. -/
theorem ticks_kaBurst_rounds (hrun : s.mode = .run) (hcmd : s.cmdState ≠ .burst) (hpos : 1 ≤ s.cfg.spacing)
    (hwindow : rounds * s.cfg.spacing < s.wdtCnt) (hrounds : rounds ≤ 3) :
    ticks (rounds * s.cfg.spacing) (startKaBurst s) = .next (kaBurstAfter s rounds 0) := by
  induction rounds with
  | zero => rw [Nat.zero_mul, kaBurstAfter_zero]; rfl
  | succ k ih =>
    rw [Nat.succ_mul] at hwindow
    have hround : ticks (s.cfg.spacing - 1 + 1) (kaBurstAfter s k 0) = .next (kaBurstAfter s (k + 1) 0) := by
      rw [ticks_succ_of_next (ticks_kaBurst_since hrun hcmd (by omega) (by omega))]
      exact kaBurstAfter_write hrun hcmd (by omega) (by omega) (by omega)
    rw [Nat.succ_mul, ticks_add, ih (by omega) (by omega), andThen_next, ← hround, Nat.sub_add_cancel hpos]

/-- Where the burst stands after each of its first `4 SPACING` ticks. -/
theorem ticks_kaBurstAfter (hrun : s.mode = .run) (hcmd : s.cmdState ≠ .burst) (hwindow : 4 * s.cfg.spacing < s.wdtCnt)
    {n : Nat} (hn : n < 4 * s.cfg.spacing) :
    ticks n (startKaBurst s) = .next (kaBurstAfter s (n / s.cfg.spacing) (n % s.cfg.spacing)) := by
  have hpos : 0 < s.cfg.spacing := by omega
  have hrounds : n / s.cfg.spacing < 4 := Nat.div_lt_of_lt_mul (by rwa [Nat.mul_comm] at hn)
  have hsplit : n / s.cfg.spacing * s.cfg.spacing + n % s.cfg.spacing = n := Nat.div_add_mod' n s.cfg.spacing
  calc ticks n (startKaBurst s)
      = andThen (ticks (n / s.cfg.spacing * s.cfg.spacing) (startKaBurst s)) (ticks (n % s.cfg.spacing)) := by
        rw [← ticks_add, hsplit]
    _ = ticks (n % s.cfg.spacing) (kaBurstAfter s (n / s.cfg.spacing) 0) := by
        rw [ticks_kaBurst_rounds hrun hcmd hpos (by omega) (by omega), andThen_next]
    _ = .next (kaBurstAfter s (n / s.cfg.spacing) (n % s.cfg.spacing)) :=
        ticks_kaBurst_since hrun hcmd (by omega) (Nat.mod_lt n hpos)

end

/-- Settles O58: `n` ticks are `n / SPACING` rounds and a rest, and the tick at `4 SPACING` makes the fifth write. -/
theorem keepAliveBurstTiming : Obligations.KeepAliveBurstTiming := by
  intro s hinv hrun hfree hwait hwindow
  have hpos := one_le_spacing hinv.params
  have hcmd : s.cmdState ≠ .burst := fun hburst => by simpa [hfree] using hinv.cmdHolds.mpr hburst
  rw [exec_grantKa_enabled ((kaGrantable_iff s).mpr ⟨hrun, hfree, hwait⟩)]
  refine ⟨fun n hn => ⟨_, ticks_kaBurstAfter hrun hcmd hwindow hn, rfl, rfl, rfl⟩, ?_⟩
  obtain ⟨t, htick, hdone⟩ := kaBurstAfter_finish (since := s.cfg.spacing - 1) hrun hcmd (by omega) (by omega)
  refine ⟨t, ?_, hdone⟩
  have hlast : 4 * s.cfg.spacing = 3 * s.cfg.spacing + (s.cfg.spacing - 1) + 1 := by omega
  have hrounds := ticks_kaBurst_rounds (rounds := 3) hrun hcmd hpos (by omega) le_rfl
  have hwaits := ticks_kaBurst_since (rounds := 3) (since := s.cfg.spacing - 1) hrun hcmd (by omega) (by omega)
  rw [andThen_next, hlast, ticks_succ_of_next (t := kaBurstAfter s 3 (s.cfg.spacing - 1)), htick]
  rw [ticks_add, hrounds, andThen_next, hwaits]

/-! ### The watchdog -/

/-- The watchdog has counted `n` ticks since `s`, and has not expired. -/
structure WatchdogCounted (s : State) (n : Nat) (t : State) : Prop where
  inv : Inv t
  run : t.mode = .run
  wdt : t.wdtCnt = s.wdtCnt - n
  cfg : t.cfg = s.cfg
  stim : t.stim = s.stim
  outs : ∃ out, t.trace = s.trace ++ out ∧ .hardReset ∉ out

/-- R168: a tick short of the watchdog's end, whatever bursts are under way. -/
theorem WatchdogCounted.tick {s t : State} {n : Nat} (h : WatchdogCounted s n t) (hn : n + 1 < s.wdtCnt) :
    ∃ u, exec .tick t = .next u ∧ WatchdogCounted s (n + 1) u := by
  obtain ⟨u, htick⟩ := execTick_next h.inv
  have hrun := (exec_tick_run h.run).symm.trans htick
  have hwdt := h.wdt
  have hearly : t.wdtCnt ≠ 1 := by omega
  obtain ⟨frame, -⟩ := tickRun_frame hrun hearly
  obtain ⟨out, hout, hquiet⟩ := h.outs
  obtain ⟨new, hnew, -, -, hnoReset⟩ := tickRun_trace hrun
  exact ⟨u, htick, {
    inv := exec_keeps_inv (i := .tick) h.inv htick
    run := by rw [frame]; exact h.run
    wdt := by rw [frame]; dsimp only; omega
    cfg := by rw [frame]; exact h.cfg
    stim := by rw [frame]; exact h.stim
    outs := ⟨out ++ new, by rw [hnew, hout, List.append_assoc], by simp [hquiet, hnoReset hearly]⟩ }⟩

theorem ticks_watchdogCounted {s : State} (hinv : Inv s) (hrun : s.mode = .run) {n : Nat} (hn : n < s.wdtCnt) :
    ∃ t, ticks n s = .next t ∧ WatchdogCounted s n t := by
  induction n with
  | zero => exact ⟨s, rfl, ⟨hinv, hrun, rfl, rfl, rfl, [], by simp, by simp⟩⟩
  | succ n ih =>
    obtain ⟨t, hticks, h⟩ := ih (by omega)
    rw [ticks_succ_of_next hticks]
    exact h.tick hn

/-- Settles O59: tick by tick the watchdog counts and nothing resets; the tick that finds it at 1 is the expiry. -/
theorem watchdogResetsExactly : Obligations.WatchdogResetsExactly := by
  intro s hinv hrun
  refine ⟨fun n hn => ?_, ?_⟩
  · obtain ⟨t, hticks, h⟩ := ticks_watchdogCounted hinv hrun hn
    obtain ⟨out, hout, hquiet⟩ := h.outs
    exact ⟨t, hticks, h.wdt, by rwa [newOutputs_of_append hout]⟩
  · obtain ⟨k, hk⟩ := Nat.exists_eq_add_of_le' hinv.wdt.1
    obtain ⟨t, hticks, h⟩ := ticks_watchdogCounted hinv hrun (n := k) (by omega)
    have hlast : t.wdtCnt = 1 := by rw [h.wdt]; omega
    rw [hk, ticks_succ_of_next hticks, exec_tick_run h.run, tickRun_expires hlast]
    refine ⟨_, rfl, by simp, ?_⟩
    rw [← h.cfg, ← h.stim]
    rfl

end Sys2Proof.Machine

/-! What `ka_pending` decides: nothing (44_keepalive_watchdog.md R166). The activity signal, the end of a keep-alive burst and a reset
write it, so forgetting it does not commute with them; but nothing reads it, so they agree in the rest of the state. That is
composed from the parts of each operation; the frame reader is treated for any part of the state that it does not see. -/

namespace Sys2Proof.Machine

/-! ### Updates that overlook part of the state -/

/-- `f` updates the rest of the state in the same way with part of it forgotten. -/
def Overlooks (forget f : State → State) : Prop := ∀ s, forget (f (forget s)) = forget (f s)

section
variable {forget f g : State → State} {p : State → Prop} [DecidablePred p]

theorem Overlooks.ignores (h : Overlooks forget f) : Ignores forget fun s => .next (f s) := .next h

theorem Overlooks.comp (hg : Overlooks forget g) (hf : Overlooks forget f) : Overlooks forget fun s => g (f s) := fun s =>
  calc forget (g (f (forget s)))
      = forget (g (forget (f (forget s)))) := (hg _).symm
    _ = forget (g (forget (f s))) := by rw [hf s]
    _ = forget (g (f s)) := hg _

theorem Overlooks.ite (hp : ∀ s, p (forget s) ↔ p s) (hf : Overlooks forget f) (hg : Overlooks forget g) :
    Overlooks forget fun s => if p s then f s else g s := by
  intro s
  simp only [hp s]
  split
  · exact hf s
  · exact hg s

theorem overlooks_self (hidem : ∀ s, forget (forget s) = forget s) : Overlooks forget fun s => s := hidem

/-- An operation with one meaning in each mode. -/
theorem Ignores.byMode {f g : State → Out} (hmode : ∀ s, (forget s).mode = s.mode) (hf : Ignores forget f)
    (hg : Ignores forget g) : Ignores forget fun s => match s.mode with
      | .run => f s
      | .diag => g s := by
  intro s
  simp only [hmode]
  cases s.mode with
  | run => exact hf s
  | diag => exact hg s

end

/-! ### Readers that do not see part of the state -/

/-- No reader sees the forgotten part: it is not among what a poll looks at, and what a poll writes, and the pump it hands its
outcome to, overlook it. -/
structure UnseenByReaders (forget : State → State) : Prop where
  idem : ∀ s, forget (forget s) = forget s
  cfg : ∀ s, (forget s).cfg = s.cfg
  cancel : ∀ s, (forget s).cancel = s.cancel
  loopRuns : ∀ x s, loopRuns x (forget s) = loopRuns x s
  bufOf : ∀ x s, bufOf x (forget s) = bufOf x s
  setBuf : ∀ x b, Overlooks forget (setBuf x b)
  setRun : ∀ x r, Overlooks forget (setRun x r)
  pump : ∀ x o, Overlooks forget (pump x o)

namespace UnseenByReaders
variable {forget : State → State}

/-- A loop that finds the cancellation, or else does `f`. -/
theorem overlooks_loop (h : UnseenByReaders forget) (x : Line) {f : State → State} (hf : Overlooks forget f) :
    Overlooks forget fun s => if Machine.loopRuns x s then (if s.cancel then cancelPoll x s else f s) else s := by
  have hstop : Overlooks forget (cancelPoll x) := (h.pump x _).comp ((h.setRun x _).comp (h.setBuf x _))
  exact .ite (fun s => by rw [h.loopRuns]) (.ite (fun s => by rw [h.cancel]) hstop hf) (overlooks_self h.idem)

theorem overlooks_readChunk (h : UnseenByReaders forget) (x : Line) (chunk : List Byte) :
    Overlooks forget (readChunk x chunk) := by
  intro s
  simp only [readChunk, h.bufOf]
  split
  · exact h.setBuf x _ s
  · exact (h.pump x _).comp (h.setBuf x []) s

theorem overlooks_pollLine (h : UnseenByReaders forget) (x : Line) (chunk : List Byte) : Overlooks forget (pollLine x chunk) :=
  h.overlooks_loop x (h.overlooks_readChunk x chunk)

theorem overlooks_errorLine (h : UnseenByReaders forget) (x : Line) : Overlooks forget (errorLine x) := by
  refine h.overlooks_loop x fun s => ?_
  simp only [h.bufOf]
  exact (h.pump x _).comp (h.setBuf x []) s

theorem ignores_rxEvent (h : UnseenByReaders forget) (x : Line) (chunk : List Byte) : Ignores forget (rxEvent x chunk) :=
  .ite (fun s => by rw [h.cfg]) (h.overlooks_pollLine x chunk).ignores fun _ => rfl

theorem ignores_serialPolls (h : UnseenByReaders forget) (x : Line) (bs : List Byte) : Ignores forget (serialPolls x bs) := by
  induction bs with
  | nil => exact (overlooks_self h.idem).ignores
  | cons b rest ih => exact (h.ignores_rxEvent x [b]).andThen ih

theorem ignores_frameArrives (h : UnseenByReaders forget) (x : Line) (f : Frame) : Ignores forget (frameArrives x f) :=
  .ite (fun s => by rw [h.cfg]) (h.ignores_rxEvent x f.bytes) (h.ignores_serialPolls x f.bytes)

end UnseenByReaders

/-! ### Pumps without `ka_pending` -/

/-- R165: what the signal writes is `ka_pending`, or has nothing to do with it. -/
theorem overlooksPending_signalActivity : Overlooks forgetPending signalActivity := fun s => by
  rw [signalActivity_eq, signalActivity_eq]
  rfl

theorem overlooksPending_pumpHOk (f : Frame) : Overlooks forgetPending (pumpHOk f) := fun s => by
  rw [pumpHOk_eq, pumpHOk_eq]
  rfl

theorem overlooksPending_actOnDisplay (f : Frame) (r : DisplayResult) : Overlooks forgetPending (actOnDisplay f r) := by
  cases r with
  | value m e bad => cases bad <;> exact fun _ => rfl
  | noHeight | reset | fault | formatError => exact fun _ => rfl

theorem overlooksPending_pumpCOk (f : Frame) : Overlooks forgetPending (pumpCOk f) := by
  have hpass : Overlooks forgetPending (passThrough f) := fun s => by
    rw [passThrough_eq, passThrough_eq]
    rfl
  have hfeed : Overlooks forgetPending feed := fun _ => rfl
  exact fun s => hpass.comp ((overlooksPending_actOnDisplay f (decodeDisplay s.cfg.digit f.payload)).comp hfeed) s

theorem overlooksPending_pump (x : Line) (o : ReaderOutcome) : Overlooks forgetPending (pump x o) := by
  cases o with
  | ok f =>
    cases x with
    | H => exact overlooksPending_pumpHOk f
    | C => exact overlooksPending_pumpCOk f
  | long | short | readError | canceled => exact fun _ => rfl

theorem pending_unseenByReaders : UnseenByReaders forgetPending where
  idem _ := rfl
  cfg _ := rfl
  cancel _ := rfl
  loopRuns x _ := by cases x <;> rfl
  bufOf x _ := by cases x <;> rfl
  setBuf x _ _ := by cases x <;> rfl
  setRun x _ _ := by cases x <;> rfl
  pump := overlooksPending_pump

/-! ### Bursts and ticks without `ka_pending` -/

/-- R146: the end of a command burst signals activity. -/
theorem overlooksPending_endCmdBurst : Overlooks forgetPending endCmdBurst := fun s => by
  rw [endCmdBurst_eq, endCmdBurst_eq]
  rfl

theorem ignoresPending_writeCmdBurst : Ignores forgetPending writeCmdBurst := by
  refine .countDown (fun _ => rfl) fun n => Overlooks.ignores (.ite (fun _ => Iff.rfl) ?_ fun _ => rfl)
  exact overlooksPending_endCmdBurst.comp (f := fun s => { emit (.txCtrl (slotFrame s.cmdSlot)) s with cmdN := n }) fun _ => rfl

/-- R164: the end of a keep-alive burst clears `ka_pending`, whatever it holds. -/
theorem ignoresPending_writeKaBurst : Ignores forgetPending writeKaBurst :=
  .countDown (fun _ => rfl) fun _ => Overlooks.ignores (.ite (fun _ => Iff.rfl) (fun _ => rfl) fun _ => rfl)

theorem ignoresPending_cmdFrameWrite (sl : Slot) : Ignores forgetPending (cmdFrameWrite sl) :=
  .ite (fun _ => Iff.rfl) ignoresPending_writeCmdBurst fun _ => rfl

theorem ignoresPending_kaFrameWrite : Ignores forgetPending kaFrameWrite :=
  .ite (fun _ => Iff.rfl) ignoresPending_writeKaBurst fun _ => rfl

theorem ignoresPending_kaIntervalTick : Ignores forgetPending kaIntervalTick := by
  rw [kaIntervalTick_ite]
  exact .ite (fun _ => Iff.rfl) (.countDown (fun _ => rfl) fun _ _ => rfl) fun _ => rfl

theorem ignoresPending_cmdTick : Ignores forgetPending cmdTick := by
  rw [cmdTick_ite]
  refine .ite (fun _ => Iff.rfl) (.countDown (fun _ => rfl) fun n => ?_) fun _ => rfl
  exact .ite (fun _ => Iff.rfl) (fun s => ignoresPending_writeCmdBurst { s with cmdSp := 0 }) fun _ => rfl

theorem ignoresPending_kaBurstTick : Ignores forgetPending kaBurstTick := by
  rw [kaBurstTick_ite]
  refine .ite (fun _ => Iff.rfl) (.countDown (fun _ => rfl) fun n => ?_) fun _ => rfl
  exact .ite (fun _ => Iff.rfl) (fun s => ignoresPending_writeKaBurst { s with kaSp := 0 }) fun _ => rfl

/-- R171: an expiry resets the flag with everything else; otherwise the parts of the tick follow one another. -/
theorem ignoresPending_tickRun : Ignores forgetPending tickRun := by
  have hparts := (ignoresPending_kaIntervalTick.andThen ignoresPending_cmdTick).andThen ignoresPending_kaBurstTick
  exact .countDown (fun _ => rfl) fun n => .ite (fun _ => Iff.rfl) (fun _ => rfl) fun s => hparts { s with wdtCnt := n }

/-! ### Operations -/

theorem ignoresPending_execTick : Ignores forgetPending execTick :=
  .byMode (g := fun s => .next (tickDiag s)) (fun _ => rfl) ignoresPending_tickRun fun _ => rfl

/-- R167: a cancellation leaves the flag as it is. -/
theorem overlooksPending_cancelRun : Overlooks forgetPending cancelRun := by
  intro s
  by_cases hburst : s.kaState = .firingBurst
  · rw [cancelRun, cancelRun, cutKaBurst_cuts hburst, cutKaBurst_cuts (s := forgetPending s) hburst]
    rfl
  · rw [cancelRun, cancelRun, cutKaBurst_same hburst, cutKaBurst_same (s := forgetPending s) hburst]
    rfl

theorem ignoresPending_execCancel : Ignores forgetPending execCancel :=
  .byMode (g := .next) (fun _ => rfl) overlooksPending_cancelRun.ignores fun _ => rfl

theorem ignoresPending_execSetRemoteEnabled (b : Bool) : Ignores forgetPending (execSetRemoteEnabled b) :=
  .byMode (f := fun s => .next { s with remoteEn := b }) (g := .next) (fun _ => rfl) (fun _ => rfl) fun _ => rfl

/-- R143: none of the checks of `MOVE_TO` asks for the flag. -/
theorem ignoresPending_moveTo (slot : Byte) : Ignores forgetPending (exec (.moveTo slot)) := by
  intro s
  cases hmode : s.mode with
  | diag => rw [exec_moveTo_diag slot hmode, exec_moveTo_diag (s := forgetPending s) slot hmode]; rfl
  | run =>
    by_cases hidle : s.cmdState = .idle
    · cases hremote : s.remoteEn with
      | false =>
        rw [exec_moveTo_remoteDisabled slot hmode hidle hremote,
          exec_moveTo_remoteDisabled (s := forgetPending s) slot hmode hidle hremote]
        rfl
      | true =>
        cases hslot : slotOf slot.toNat with
        | none =>
          rw [exec_moveTo_badSlot hmode hidle hremote hslot,
            exec_moveTo_badSlot (s := forgetPending s) hmode hidle hremote hslot]
          rfl
        | some sl =>
          rw [exec_moveTo_accepted hmode hidle hremote hslot,
            exec_moveTo_accepted (s := forgetPending s) hmode hidle hremote hslot]
          rfl
    · rw [exec_moveTo_busy slot hmode hidle, exec_moveTo_busy (s := forgetPending s) slot hmode hidle]
      rfl

theorem ignoresPending_execGrantCmd : Ignores forgetPending execGrantCmd :=
  Overlooks.ignores (.ite (p := fun s => cmdGrantable s = true) (fun _ => Iff.rfl) (fun _ => rfl) fun _ => rfl)

theorem ignoresPending_execGrantKa : Ignores forgetPending execGrantKa :=
  Overlooks.ignores (.ite (p := fun s => kaGrantable s = true) (fun _ => Iff.rfl) (fun _ => rfl) fun _ => rfl)

/-- Settles O53, operation by operation: each is made of parts that overlook the flag. -/
theorem pendingFlagIsIrrelevant : Obligations.PendingFlagIsIrrelevant := by
  intro i s
  have hreaders := pending_unseenByReaders
  cases i with
  | dispNoheight | dispReset | dispFault | dispValue => exact hreaders.ignores_frameArrives .C _ s
  | button => exact hreaders.ignores_frameArrives .H _ s
  | cmdSlot1 => exact ignoresPending_cmdFrameWrite .s1 s
  | cmdSlot2 => exact ignoresPending_cmdFrameWrite .s2 s
  | cmdSlot3 => exact ignoresPending_cmdFrameWrite .s3 s
  | cmdSlot4 => exact ignoresPending_cmdFrameWrite .s4 s
  | keepalive => exact ignoresPending_kaFrameWrite s
  | rxH chunk => exact hreaders.ignores_rxEvent .H chunk s
  | rxC chunk => exact hreaders.ignores_rxEvent .C chunk s
  | rxerrH => exact (hreaders.overlooks_errorLine .H).ignores s
  | rxerrC => exact (hreaders.overlooks_errorLine .C).ignores s
  | tick => exact ignoresPending_execTick s
  | moveTo slot => exact ignoresPending_moveTo slot s
  | setRemoteEnabled b => exact ignoresPending_execSetRemoteEnabled b s
  | cancel => exact ignoresPending_execCancel s
  | grantCmd => exact ignoresPending_execGrantCmd s
  | grantKa => exact ignoresPending_execGrantKa s
  | encodeCommand slot =>
    cases hcode : encodeCommand slot with
    | ok f => rw [exec_encodeCommand_ok hcode, exec_encodeCommand_ok hcode]; rfl
    | error err => rw [exec_encodeCommand_error hcode, exec_encodeCommand_error hcode]; rfl
  | signalActivity => exact overlooksPending_signalActivity.ignores s
  | reset | wdtFeed | currentPosition | checksum | digitByte | decodeButton | decodeDisplay | encodeKeepalive => rfl

end Sys2Proof.Machine

/-! Mode `Diag` as a whole (60_exceptions.md R190): the mode comes from `INIT_OK` alone, and in `Diag` no input event reaches the
block's state. -/

namespace Sys2Proof.Machine

/-! ### The mode -/

theorem Inv.mode_eq {s : State} (h : Inv s) : s.mode = if s.cfg.initOk then .run else .diag := by
  cases hmode : s.mode with
  | run => rw [if_pos (h.modeInit.mp hmode)]
  | diag => rw [if_neg fun hinit => mode_ne_run_of_diag hmode (h.modeInit.mpr hinit)]

/-- R25, R190: the invariant ties the mode to a parameter, and no operation writes a parameter. -/
theorem exec_mode {i : Instr} {s t : State} (h : Inv s) (e : exec i s = .next t) : t.mode = s.mode := by
  obtain ⟨hcfg, -⟩ := exec_outsideKept e
  rw [(exec_keeps_inv h e).mode_eq, hcfg, h.mode_eq]

/-! ### The input events in `Diag` -/

section
variable {s : State} (hdiag : s.mode = .diag)
include hdiag

theorem exec_rxInstr_diag (x : Line) {chunk : List Byte} (hfits : chunk.length ≤ s.cfg.chunkMax) :
    exec (rxInstr x chunk) s = .next s := by rw [exec_rxInstr_fits hfits, pollLine_off (.inl hdiag)]

theorem exec_rxerrInstr_diag (x : Line) : exec (rxerrInstr x) s = .next s := by
  rw [exec_rxerrInstr, errorLine_off (.inl hdiag)]

theorem exec_grantCmd_diag : exec .grantCmd s = .next s := by
  refine exec_grantCmd_disabled fun hgrant => ?_
  obtain ⟨hrun, -⟩ := (cmdGrantable_iff s).mp hgrant
  exact mode_ne_run_of_diag hdiag hrun

theorem exec_grantKa_diag : exec .grantKa s = .next s := by
  refine exec_grantKa_disabled fun hgrant => ?_
  obtain ⟨hrun, -⟩ := (kaGrantable_iff s).mp hgrant
  exact mode_ne_run_of_diag hdiag hrun

end

/-- R172: the tick feeds a watchdog that is full already, so that the diagnostic is all there is to it. -/
theorem exec_tick_diag_reports {s : State} (h : Inv s) (hdiag : s.mode = .diag) :
    exec .tick s = .next { s with trace := s.trace ++ [.diag .initFail] } := by
  rw [exec_tick_diag hdiag, tickDiag, feed_diag h hdiag]
  rfl

/-- R190: the position is still the one a reset leaves. -/
theorem pos_diag {s : State} (h : Inv s) (hdiag : s.mode = .diag) : s.pos = ⟨0, 0⟩ := by
  rw [diag_eq_resetBlock h hdiag]
  rfl

theorem exec_currentPosition_diag {s : State} (h : Inv s) (hdiag : s.mode = .diag) :
    exec .currentPosition s = .next { s with trace := s.trace ++ [.ret (.position ⟨0, 0⟩)] } := by
  rw [← pos_diag h hdiag]
  rfl

/-! ### The obligation -/

/-- Settles O52: the mode follows the parameters; in `Diag` the frame of every operation, then the input events one by one. -/
theorem diagHaltsNormalOperation : Obligations.DiagHaltsNormalOperation := fun _ hinv =>
  ⟨fun _ _ => exec_mode hinv, fun hdiag =>
    ⟨fun _ _ => exec_diag_frame hinv hdiag,
      fun x _ => exec_rxInstr_diag hdiag x,
      exec_rxerrInstr_diag hdiag,
      exec_tick_diag_reports hinv hdiag,
      fun slot => exec_moveTo_diag slot hdiag,
      fun b => exec_setRemoteEnabled_diag b hdiag,
      exec_currentPosition_diag hinv hdiag,
      exec_cancel_diag hdiag, exec_grantCmd_diag hdiag, exec_grantKa_diag hdiag⟩⟩

end Sys2Proof.Machine

/-! What `cmd_slot` decides while no command is in progress, and a burst's counters outside that burst: nothing
(70_reset_and_hazards.md R215, 10_state.md R10). Most parts of the block neither touch these registers nor move the two states that
say whether they are read, so they commute with forgetting them. The others stand behind a test of those states, and so read a
register only where it is kept; or they leave the registers unread, or set the ones they make readable. -/

namespace Sys2Proof.Machine

/-! ### Forgetting the unread registers -/

theorem forgetUnread_idem (s : State) : forgetUnread (forgetUnread s) = forgetUnread s := by
  unfold forgetUnread
  dsimp only
  split_ifs <;> rfl

theorem forgetUnread_of_eq {s t : State} (h : t = forgetUnread s) : forgetUnread t = forgetUnread s := by
  rw [h, forgetUnread_idem]

theorem overlooksUnread_of_commutes {f : State → State} (h : ∀ s, f (forgetUnread s) = forgetUnread (f s)) :
    Overlooks forgetUnread f := fun s => forgetUnread_of_eq (h s)

theorem ignoresUnread_of_commutes {f : State → State} (h : ∀ s, f (forgetUnread s) = forgetUnread (f s)) :
    Ignores forgetUnread fun s => .next (f s) := (overlooksUnread_of_commutes h).ignores

section
variable {s : State}

/-! A register that is read is not forgotten. -/

theorem forgetUnread_cmdSlot (h : s.cmdState ≠ .idle) : (forgetUnread s).cmdSlot = s.cmdSlot := if_neg h
theorem forgetUnread_cmdN (h : s.cmdState = .burst) : (forgetUnread s).cmdN = s.cmdN := if_pos h
theorem forgetUnread_cmdSp (h : s.cmdState = .burst) : (forgetUnread s).cmdSp = s.cmdSp := if_pos h
theorem forgetUnread_kaN (h : s.kaState = .firingBurst) : (forgetUnread s).kaN = s.kaN := if_pos h
theorem forgetUnread_kaSp (h : s.kaState = .firingBurst) : (forgetUnread s).kaSp = s.kaSp := if_pos h

/-! Nor is what is written to it. -/

theorem forgetUnread_withCmdSp (h : s.cmdState = .burst) (n : Nat) :
    { forgetUnread s with cmdSp := n } = forgetUnread { s with cmdSp := n } := by simp [forgetUnread, h]

theorem forgetUnread_withKaSp (h : s.kaState = .firingBurst) (n : Nat) :
    { forgetUnread s with kaSp := n } = forgetUnread { s with kaSp := n } := by simp [forgetUnread, h]

end

/-! ### Operations that ignore part of the state where a test holds -/

/-- Where `p` holds, `f` does the same with part of the state forgotten, but for that part. -/
def IgnoresWhere (forget : State → State) (p : State → Prop) (f : State → Out) : Prop :=
  ∀ s, p s → mapNext forget (f (forget s)) = mapNext forget (f s)

section
variable {forget : State → State} {p : State → Prop}

/-- What does nothing elsewhere ignores that part everywhere. -/
theorem IgnoresWhere.guarded [DecidablePred p] {f : State → Out} (hidem : ∀ s, forget (forget s) = forget s)
    (hp : ∀ s, p (forget s) ↔ p s) (hf : IgnoresWhere forget p f) : Ignores forget fun s => if p s then f s else .next s := by
  intro s
  simp only [hp s]
  split
  · next h => exact hf s h
  · exact congrArg Host.Outcome.next (hidem s)

theorem IgnoresWhere.countDown {c : Counter} {n : State → Nat} {f : Nat → State → Out}
    (hn : ∀ s, p s → n (forget s) = n s) (hf : ∀ k, IgnoresWhere forget p (f k)) :
    IgnoresWhere forget p fun s => countDown c (n s) fun k => f k s := by
  intro s h
  simp only [hn s h]
  cases n s with
  | zero => rfl
  | succ k => exact hf k s h

end

/-! ### Readers and pumps without the unread registers -/

theorem signalActivity_forgetUnread (s : State) : signalActivity (forgetUnread s) = forgetUnread (signalActivity s) := by
  rw [signalActivity_eq, signalActivity_eq]
  rfl

theorem pumpHOk_forgetUnread (f : Frame) (s : State) : pumpHOk f (forgetUnread s) = forgetUnread (pumpHOk f s) := by
  rw [pumpHOk_eq, pumpHOk_eq]
  rfl

theorem actOnDisplay_forgetUnread (f : Frame) (r : DisplayResult) (s : State) :
    actOnDisplay f r (forgetUnread s) = forgetUnread (actOnDisplay f r s) := by
  cases r with
  | value m e bad => cases bad <;> rfl
  | noHeight | reset | fault | formatError => rfl

theorem pumpCOk_forgetUnread (f : Frame) (s : State) : pumpCOk f (forgetUnread s) = forgetUnread (pumpCOk f s) := by
  have hfeed : feed (forgetUnread s) = forgetUnread (feed s) := rfl
  rw [pumpCOk, hfeed, actOnDisplay_forgetUnread, passThrough_eq, pumpCOk, passThrough_eq]
  rfl

theorem pump_forgetUnread (x : Line) (o : ReaderOutcome) (s : State) :
    pump x o (forgetUnread s) = forgetUnread (pump x o s) := by
  cases o with
  | ok f =>
    cases x with
    | H => exact pumpHOk_forgetUnread f s
    | C => exact pumpCOk_forgetUnread f s
  | long | short | readError | canceled => rfl

theorem unread_unseenByReaders : UnseenByReaders forgetUnread where
  idem := forgetUnread_idem
  cfg _ := rfl
  cancel _ := rfl
  loopRuns x _ := by cases x <;> rfl
  bufOf x _ := by cases x <;> rfl
  setBuf x _ := overlooksUnread_of_commutes fun _ => by cases x <;> rfl
  setRun x _ := overlooksUnread_of_commutes fun _ => by cases x <;> rfl
  pump x o := overlooksUnread_of_commutes (pump_forgetUnread x o)

/-! ### Bursts without the unread registers -/

/-- R144: the slot is read while the sequencer waits, and the grant sets the counters that it makes readable. -/
theorem startCmdBurst_forgetUnread {s : State} (hwait : s.cmdState = .waitLock) :
    startCmdBurst (forgetUnread s) = forgetUnread (startCmdBurst s) := by
  rw [startCmdBurst_eq, startCmdBurst_eq]
  simp [forgetUnread, hwait]

/-- R163: the grant sets the counters that it makes readable. -/
theorem startKaBurst_forgetUnread (s : State) : startKaBurst (forgetUnread s) = forgetUnread (startKaBurst s) := by
  rw [startKaBurst_eq, startKaBurst_eq]
  simp [forgetUnread]

/-- R146: the end of a command burst leaves the slot and the burst's counters unread. -/
theorem overlooksUnread_endCmdBurst : Overlooks forgetUnread endCmdBurst := by
  intro s
  rw [endCmdBurst_eq, endCmdBurst_eq]
  by_cases hka : s.kaState = .firingBurst <;> simp [forgetUnread, hka]

/-- R164: the end of a keep-alive burst leaves the burst's counters unread. -/
theorem overlooksUnread_endKaBurst : Overlooks forgetUnread endKaBurst := by
  intro s
  rw [endKaBurst_eq, endKaBurst_eq]
  cases hcmd : s.cmdState <;> simp [forgetUnread, hcmd]

theorem ignoresUnread_writeCmdBurst : IgnoresWhere forgetUnread (·.cmdState = .burst) writeCmdBurst := by
  refine .countDown (fun _ => forgetUnread_cmdN) fun n s hburst => congrArg Host.Outcome.next ?_
  by_cases hlast : n = 0
  · have hwrite : { emit (.txCtrl (slotFrame (forgetUnread s).cmdSlot)) (forgetUnread s) with cmdN := n } =
        forgetUnread { emit (.txCtrl (slotFrame s.cmdSlot)) s with cmdN := n } := by simp [forgetUnread, emit, hburst]
    simp only [if_pos hlast, hwrite]
    exact overlooksUnread_endCmdBurst _
  · simp only [if_neg hlast]
    exact forgetUnread_of_eq (by simp [forgetUnread, emit, hburst])

theorem ignoresUnread_writeKaBurst : IgnoresWhere forgetUnread (·.kaState = .firingBurst) writeKaBurst := by
  refine .countDown (fun _ => forgetUnread_kaN) fun n s hburst => congrArg Host.Outcome.next ?_
  by_cases hlast : n = 0
  · have hwrite : { emit (.txCtrl encodeKeepalive) (forgetUnread s) with kaN := n } =
        forgetUnread { emit (.txCtrl encodeKeepalive) s with kaN := n } := by simp [forgetUnread, emit, hburst]
    simp only [if_pos hlast, hwrite]
    exact overlooksUnread_endKaBurst _
  · simp only [if_neg hlast]
    exact forgetUnread_of_eq (by simp [forgetUnread, emit, hburst])

theorem ignoresUnread_cmdFrameWrite (sl : Slot) : Ignores forgetUnread (cmdFrameWrite sl) := by
  refine IgnoresWhere.guarded forgetUnread_idem (fun s => and_congr_right fun _ => and_congr_right fun hburst => ?_)
    fun s ⟨_, hburst, _⟩ => ignoresUnread_writeCmdBurst s hburst
  have hbusy : s.cmdState ≠ .idle := by rw [show s.cmdState = .burst from hburst]; simp
  rw [forgetUnread_cmdSlot hbusy]

theorem ignoresUnread_kaFrameWrite : Ignores forgetUnread kaFrameWrite :=
  IgnoresWhere.guarded forgetUnread_idem (fun _ => Iff.rfl) fun s ⟨_, hburst⟩ => ignoresUnread_writeKaBurst s hburst

/-! ### Ticks without the unread registers -/

theorem ignoresUnread_kaIntervalTick : Ignores forgetUnread kaIntervalTick := by
  rw [kaIntervalTick_ite]
  refine IgnoresWhere.guarded forgetUnread_idem (fun _ => Iff.rfl) (.countDown (fun _ _ => rfl) fun n s hwait => ?_)
  have hwaits : s.kaState ≠ .firingBurst := by simp [show s.kaState = .waiting from hwait]
  refine congrArg Host.Outcome.next (forgetUnread_of_eq ?_)
  by_cases hfires : n = 0 <;> simp [forgetUnread, hfires, hwaits]

theorem ignoresUnread_cmdTick : Ignores forgetUnread cmdTick := by
  rw [cmdTick_ite]
  refine IgnoresWhere.guarded forgetUnread_idem (fun _ => Iff.rfl) (.countDown (fun _ => forgetUnread_cmdSp) fun n s hburst => ?_)
  simp only [forgetUnread_withCmdSp hburst]
  split
  · exact ignoresUnread_writeCmdBurst { s with cmdSp := 0 } hburst
  · exact congrArg Host.Outcome.next (forgetUnread_idem _)

theorem ignoresUnread_kaBurstTick : Ignores forgetUnread kaBurstTick := by
  rw [kaBurstTick_ite]
  refine IgnoresWhere.guarded forgetUnread_idem (fun _ => Iff.rfl) (.countDown (fun _ => forgetUnread_kaSp) fun n s hburst => ?_)
  simp only [forgetUnread_withKaSp hburst]
  split
  · exact ignoresUnread_writeKaBurst { s with kaSp := 0 } hburst
  · exact congrArg Host.Outcome.next (forgetUnread_idem _)

/-- R171: an expiry resets the registers with everything else; otherwise the parts of the tick follow one another. -/
theorem ignoresUnread_tickRun : Ignores forgetUnread tickRun := by
  have hparts := (ignoresUnread_kaIntervalTick.andThen ignoresUnread_cmdTick).andThen ignoresUnread_kaBurstTick
  exact .countDown (fun _ => rfl) fun n => .ite (fun _ => Iff.rfl) (fun _ => rfl) fun s => hparts { s with wdtCnt := n }

/-! ### Operations -/

theorem ignoresUnread_next : Ignores forgetUnread .next := (overlooks_self forgetUnread_idem).ignores

theorem ignoresUnread_execTick : Ignores forgetUnread execTick :=
  .byMode (g := fun s => .next (tickDiag s)) (fun _ => rfl) ignoresUnread_tickRun
    (ignoresUnread_of_commutes fun _ => rfl)

/-- R167: a cancellation leaves the counters of a burst that it cuts off unread. -/
theorem overlooksUnread_cancelRun : Overlooks forgetUnread cancelRun := by
  intro s
  by_cases hburst : s.kaState = .firingBurst
  · rw [cancelRun, cancelRun, cutKaBurst_cuts hburst, cutKaBurst_cuts (s := forgetUnread s) hburst]
    cases hcmd : s.cmdState <;> simp [forgetUnread, hcmd]
  · rw [cancelRun, cancelRun, cutKaBurst_same hburst, cutKaBurst_same (s := forgetUnread s) hburst]
    cases hcmd : s.cmdState <;> simp [forgetUnread, hcmd]

theorem ignoresUnread_execCancel : Ignores forgetUnread execCancel :=
  .byMode (g := .next) (fun _ => rfl) overlooksUnread_cancelRun.ignores ignoresUnread_next

theorem ignoresUnread_execSetRemoteEnabled (b : Bool) : Ignores forgetUnread (execSetRemoteEnabled b) :=
  .byMode (f := fun s => .next { s with remoteEn := b }) (g := .next) (fun _ => rfl)
    (ignoresUnread_of_commutes fun _ => rfl) ignoresUnread_next

theorem ignoresUnread_giveBack (r : Result) : Ignores forgetUnread fun s => .next (giveBack r s) :=
  ignoresUnread_of_commutes fun _ => rfl

/-- R143: none of the checks of `MOVE_TO` asks for an unread register, and an accepted command sets the slot that it makes
readable. -/
theorem ignoresUnread_execMoveTo (slot : Byte) : Ignores forgetUnread (execMoveTo slot) := by
  intro s
  have hmode : (forgetUnread s).mode = s.mode := rfl
  have hcmd : (forgetUnread s).cmdState = s.cmdState := rfl
  have hremote : (forgetUnread s).remoteEn = s.remoteEn := rfl
  simp only [execMoveTo, hmode, hcmd, hremote]
  cases s.mode with
  | diag => exact ignoresUnread_giveBack _ s
  | run =>
    cases hstate : s.cmdState with
    | waitLock | burst => exact ignoresUnread_next s
    | idle =>
      cases s.remoteEn with
      | false => exact ignoresUnread_giveBack _ s
      | true =>
        cases slotOf slot.toNat with
        | none => exact ignoresUnread_giveBack _ s
        | some sl => exact congrArg Host.Outcome.next (forgetUnread_of_eq (by simp [forgetUnread, hstate]))

theorem ignoresUnread_execGrantCmd : Ignores forgetUnread execGrantCmd := by
  refine Overlooks.ignores fun s => ?_
  have hgrant : cmdGrantable (forgetUnread s) = cmdGrantable s := rfl
  rw [hgrant]
  split
  · next h =>
    obtain ⟨-, -, hwait⟩ := (cmdGrantable_iff s).mp h
    exact forgetUnread_of_eq (startCmdBurst_forgetUnread hwait)
  · exact forgetUnread_idem s

theorem ignoresUnread_execGrantKa : Ignores forgetUnread execGrantKa :=
  Overlooks.ignores (.ite (p := fun s => kaGrantable s = true) (fun _ => Iff.rfl)
    (overlooksUnread_of_commutes startKaBurst_forgetUnread) forgetUnread_idem)

/-- Settles O54, operation by operation: each is made of parts that read a register only where it is kept. -/
theorem unreadRegistersAreIrrelevant : Obligations.UnreadRegistersAreIrrelevant := by
  intro i s
  have hreaders := unread_unseenByReaders
  cases i with
  | dispNoheight | dispReset | dispFault | dispValue => exact hreaders.ignores_frameArrives .C _ s
  | button => exact hreaders.ignores_frameArrives .H _ s
  | cmdSlot1 => exact ignoresUnread_cmdFrameWrite .s1 s
  | cmdSlot2 => exact ignoresUnread_cmdFrameWrite .s2 s
  | cmdSlot3 => exact ignoresUnread_cmdFrameWrite .s3 s
  | cmdSlot4 => exact ignoresUnread_cmdFrameWrite .s4 s
  | keepalive => exact ignoresUnread_kaFrameWrite s
  | rxH chunk => exact hreaders.ignores_rxEvent .H chunk s
  | rxC chunk => exact hreaders.ignores_rxEvent .C chunk s
  | rxerrH => exact (hreaders.overlooks_errorLine .H).ignores s
  | rxerrC => exact (hreaders.overlooks_errorLine .C).ignores s
  | tick => exact ignoresUnread_execTick s
  | moveTo slot => exact ignoresUnread_execMoveTo slot s
  | setRemoteEnabled b => exact ignoresUnread_execSetRemoteEnabled b s
  | cancel => exact ignoresUnread_execCancel s
  | grantCmd => exact ignoresUnread_execGrantCmd s
  | grantKa => exact ignoresUnread_execGrantKa s
  | encodeCommand slot =>
    cases hcode : encodeCommand slot with
    | ok f =>
      rw [exec_encodeCommand_ok hcode, exec_encodeCommand_ok hcode]
      exact ignoresUnread_giveBack _ s
    | error err =>
      rw [exec_encodeCommand_error hcode, exec_encodeCommand_error hcode]
      exact ignoresUnread_giveBack _ s
  | signalActivity => exact ignoresUnread_of_commutes signalActivity_forgetUnread s
  | wdtFeed => exact ignoresUnread_of_commutes (f := feed) (fun _ => rfl) s
  | reset => rfl
  | currentPosition | checksum | digitByte | decodeButton | decodeDisplay | encodeKeepalive =>
    exact ignoresUnread_giveBack _ s

end Sys2Proof.Machine

/-! What the constraints on the parameters are for (70_reset_and_hazards.md R214): a watchdog that outlasts the gaps between `Ok`
frames never expires (60_exceptions.md R222), and the keep-alive comes inside the controller's cutoff (R224), with and without a
command burst in the way. At the end, what a reset sets (R211). -/

namespace Sys2Proof.Machine

/-! ### The watchdog over one operation -/

/-- From `s` to `t` the watchdog is left alone or fed, and no `HardReset` is put out. -/
structure WatchdogSpared (s t : State) : Prop where
  wdt : t.wdtCnt = s.wdtCnt ∨ t.wdtCnt = s.cfg.wdtTimeout
  outs : ∃ out, t.trace = s.trace ++ out ∧ .hardReset ∉ out

theorem WatchdogSpared.of_same {s t : State} (hwdt : t.wdtCnt = s.wdtCnt) (htrace : t.trace = s.trace) : WatchdogSpared s t :=
  ⟨.inl hwdt, [], by simp [htrace], by simp⟩

theorem watchdogSpared_cancelRun (s : State) : WatchdogSpared s (cancelRun s) := by
  by_cases hburst : s.kaState = .firingBurst
  · exact ⟨.inl (cancelRun_wdtCnt s), [.act false], by rw [cancelRun_trace, if_pos hburst], by simp⟩
  · exact .of_same (cancelRun_wdtCnt s) (by rw [cancelRun_trace, if_neg hburst])

/-- R168, R170: only a tick in mode `Run` counts the watchdog down, and only such a tick puts out `HardReset`. -/
theorem exec_watchdogSpared {i : Instr} {s t : State} (e : exec i s = .next t) (h : i ≠ .tick ∨ s.mode = .diag) :
    WatchdogSpared s t := by
  cases exec_effect e with
  | handset _ e =>
    obtain ⟨out, htrace, -, -, hquiet⟩ := e.outs
    exact ⟨e.wdt, out, htrace, hquiet⟩
  | controller _ e =>
    obtain ⟨out, htrace, -, -, hquiet⟩ := e.outs
    exact ⟨e.wdt, out, htrace, hquiet⟩
  | tickRun hi hrun _ =>
    rcases h with hnotTick | hdiag
    · exact absurd hi hnotTick
    · exact absurd hrun (mode_ne_run_of_diag hdiag)
  | tickDiag _ _ e => exact e ▸ ⟨.inr rfl, [.diag .initFail], rfl, by simp⟩
  | reset _ e => exact e ▸ ⟨.inr rfl, [], by simp, by simp⟩
  | cmdWrite _ _ _ e =>
    obtain ⟨out, htrace, -, -, hquiet⟩ := writeCmdBurst_trace e
    rcases writeCmdBurst_next_iff.mp e with ⟨-, rfl⟩ | ⟨-, rfl⟩ <;> exact ⟨.inl rfl, out, htrace, hquiet⟩
  | kaWrite _ _ _ e =>
    obtain ⟨out, htrace, -, -, hquiet⟩ := writeKaBurst_trace e
    rcases writeKaBurst_next_iff.mp e with ⟨-, rfl⟩ | ⟨-, rfl⟩ <;> exact ⟨.inl rfl, out, htrace, hquiet⟩
  | grantCmd _ _ _ _ e => rw [e, startCmdBurst_eq]; exact ⟨.inl rfl, _, rfl, by simp⟩
  | grantKa _ _ _ _ e => rw [e, startKaBurst_eq]; exact ⟨.inl rfl, _, rfl, by simp⟩
  | cancel _ _ e => exact e ▸ watchdogSpared_cancelRun s
  | moveTo _ _ _ _ _ e => exact e ▸ .of_same rfl rfl
  | remote _ _ _ e => exact e ▸ .of_same rfl rfl
  | signal _ e => rw [e, signalActivity_eq]; exact .of_same rfl rfl
  | feed _ e => exact e ▸ ⟨.inr rfl, [], by simp, by simp⟩
  | result r _ _ e => exact e ▸ ⟨.inl rfl, [.ret r], rfl, by simp⟩
  | nothing _ _ e => exact e ▸ .of_same rfl rfl

/-- R168: a tick in mode `Run` that is not the last counts the watchdog down by one. -/
theorem exec_tick_counts {s t : State} (hrun : s.mode = .run) (hearly : s.wdtCnt ≠ 1) (e : exec .tick s = .next t) :
    t.wdtCnt = s.wdtCnt - 1 ∧ ∃ out, t.trace = s.trace ++ out ∧ .hardReset ∉ out := by
  rw [exec_tick_run hrun] at e
  obtain ⟨frame, -⟩ := tickRun_frame e hearly
  obtain ⟨out, htrace, -, -, hquiet⟩ := tickRun_trace e
  exact ⟨by rw [frame], out, htrace, hquiet hearly⟩

/-- R131: a delivered `Ok` frame of either line feeds the watchdog. -/
theorem exec_readsOk_feeds {x : Line} {f : Frame} {i : Instr} {s t : State} (hinv : Inv s) (hreads : readsOk x f i s)
    (e : exec i s = .next t) : t.wdtCnt = s.cfg.wdtTimeout := by
  have hbuf : bufOk x.start (bufOf x s) := by
    cases x with
    | H => exact hinv.bufH
    | C => exact hinv.bufC
  rcases line_delivers (readsOk_lineOp hreads) hbuf e with ⟨g, -, rfl⟩ | ⟨hnone, -⟩
  · rw [pump_ok_feeds]
    cases x <;> rfl
  · exact absurd hreads (hnone f)

theorem not_readsOk_tick {x : Line} {f : Frame} {s : State} : ¬ readsOk x f .tick s := by
  intro hreads
  have hline := readsOk_lineOp hreads
  cases x <;> simp [isLineOp, isHandsetOp, isControllerOp] at hline

/-! ### Runs with bounded gaps (R222) -/

/-- One operation of a run with bounded gaps keeps the count: where at most `g` ticks lie between the last feed and `s`, as many as the
rest of the run starts from lie between the last feed and `t`; and the watchdog does not expire. -/
theorem gapsAtMost_step {gap g : Nat} {i : Instr} {is : List Instr} {s t : State} (hinv : Inv s)
    (hwindow : outlastsGap s.cfg gap) (hfed : s.cfg.wdtTimeout ≤ s.wdtCnt + g) (hgaps : GapsAtMost gap g (i :: is) s)
    (e : exec i s = .next t) :
    (∃ g', s.cfg.wdtTimeout ≤ t.wdtCnt + g' ∧ GapsAtMost gap g' is t) ∧
      ∃ out, t.trace = s.trace ++ out ∧ .hardReset ∉ out := by
  obtain ⟨hok, htick, hother⟩ := hgaps t e
  by_cases hreads : ∃ x f, readsOk x f i s
  · obtain ⟨x, f, hf⟩ := hreads
    have hnotTick : i ≠ .tick := by
      rintro rfl
      exact not_readsOk_tick hf
    exact ⟨⟨0, (exec_readsOk_feeds hinv hf e).ge, hok ⟨x, f, hf⟩⟩, (exec_watchdogSpared e (.inl hnotTick)).outs⟩
  · by_cases hi : i = .tick
    · obtain ⟨hgap, hrest⟩ := htick hreads hi
      subst hi
      cases hmode : s.mode with
      | run =>
        have hearly : 2 ≤ s.wdtCnt := by unfold outlastsGap at hwindow; omega
        obtain ⟨hwdt, houts⟩ := exec_tick_counts hmode (by omega) e
        exact ⟨⟨g + 1, by omega, hrest⟩, houts⟩
      | diag =>
        obtain ⟨hwdt, houts⟩ := exec_watchdogSpared e (.inr hmode)
        exact ⟨⟨g + 1, by omega, hrest⟩, houts⟩
    · obtain ⟨hwdt, houts⟩ := exec_watchdogSpared e (.inl hi)
      exact ⟨⟨g, by omega, hother hreads hi⟩, houts⟩

/-- R222: so over a whole run the watchdog never expires. -/
theorem runOps_no_hardReset {gap g : Nat} {is : List Instr} {s t : State} (hinv : Inv s) (hwindow : outlastsGap s.cfg gap)
    (hfed : s.cfg.wdtTimeout ≤ s.wdtCnt + g) (hgaps : GapsAtMost gap g is s) (hrun : runOps is s = .next t) :
    ∃ out, t.trace = s.trace ++ out ∧ .hardReset ∉ out := by
  induction is generalizing g s with
  | nil =>
    cases hrun
    exact ⟨[], by simp, by simp⟩
  | cons i is ih =>
    obtain ⟨u, e, hcont⟩ := andThen_next_iff.mp hrun
    obtain ⟨⟨g', hfed', hgaps'⟩, first, hfirst, hquiet⟩ := gapsAtMost_step hinv hwindow hfed hgaps e
    obtain ⟨hcfg, -⟩ := exec_outsideKept e
    rw [← hcfg] at hwindow hfed'
    obtain ⟨rest, hrest, hquiet'⟩ := ih (exec_keeps_inv hinv e) hwindow hfed' hgaps' hcont
    exact ⟨first ++ rest, by rw [hrest, hfirst, List.append_assoc], by simp [hquiet, hquiet']⟩

/-! ### The interval under a command burst -/

/-- The interval has run for `n` ticks since `s`: what is left of it, or the task has fired and waits for the bus. -/
def IntervalRun (s : State) (n : Nat) (t : State) : Prop :=
  (n < s.kaTimer ∧ t.kaState = .waiting ∧ t.kaTimer + n = s.kaTimer) ∨ (s.kaTimer ≤ n ∧ t.kaState = .firingWait)

/-- R161, R162: the interval part of a tick. -/
theorem IntervalRun.afterInterval {s t : State} {n : Nat} (h : IntervalRun s n t) :
    IntervalRun s (n + 1) (afterInterval t) := by
  rcases h with ⟨hleft, hwait, htimer⟩ | ⟨hdue, hfired⟩
  · by_cases hlast : t.kaTimer = 1
    · rw [afterInterval_fires hwait hlast]
      exact .inr ⟨by omega, rfl⟩
    · rw [afterInterval_waits hwait (by omega)]
      exact .inl ⟨by omega, hwait, by dsimp only; omega⟩
  · rw [afterInterval_elsewhere (by simp [hfired])]
    exact .inr ⟨by omega, hfired⟩

/-- `CMD_TICK` leaves the interval timer alone, unless it ends the burst (R146, R165). -/
theorem cmdTick_kaTimer {s t : State} (e : cmdTick s = .next t) (hburst : t.cmdState = .burst) : t.kaTimer = s.kaTimer := by
  rcases cmdTick_next_iff.mp e with ⟨-, rfl⟩ | ⟨-, -, rfl⟩ | ⟨-, -, hwrite⟩
  · rfl
  · rfl
  · rcases writeCmdBurst_next_iff.mp hwrite with ⟨-, rfl⟩ | ⟨-, rfl⟩
    · rfl
    · cases hburst

section
variable {s : State} (hinv : Inv s) (hrun : s.mode = .run) (hfree : s.busOwner = .free)
  (hwindow : 4 * s.cfg.spacing < s.wdtCnt) (hwait : s.kaState = .waiting)
include hinv hrun hfree hwindow hwait

/-- The command burst does not hold the interval up. -/
theorem ticks_burst_intervalRun {n : Nat} {t : State} (hn : n < 4 * s.cfg.spacing)
    (hticks : ticks n (startCmdBurst s) = .next t) : IntervalRun s n t := by
  induction n generalizing t with
  | zero =>
    cases hticks
    exact .inl ⟨hinv.timerCounts hwait, hwait, rfl⟩
  | succ n ih =>
    obtain ⟨_, _, t0, -, hbefore, h0⟩ := ticks_burstAt hinv hrun hfree hwindow (n := n) (by omega)
    obtain ⟨_, _, t1, -, hreaches, h1⟩ := ticks_burstAt hinv hrun hfree hwindow hn
    cases hreaches.symm.trans hticks
    rw [ticks_succ_of_next hbefore, h0.tick hwindow] at hticks
    obtain ⟨hstate, -⟩ := cmdTick_keeps_ka hticks
    have htimer := cmdTick_kaTimer hticks h1.burst
    have hafter := (ih (by omega) hbefore).afterInterval
    unfold IntervalRun at hafter ⊢
    rwa [hstate, htimer]

/-- At the burst's end the bus is free, and an interval no longer than the burst has run out. -/
theorem ticks_burst_fired (hlate : s.kaTimer ≤ 4 * s.cfg.spacing) :
    ∃ t, ticks (4 * s.cfg.spacing) (startCmdBurst s) = .next t ∧ kaGrantable t = true := by
  have hpos := one_le_spacing hinv.params
  obtain ⟨n, hlast⟩ := Nat.exists_eq_add_of_le' (show 1 ≤ 4 * s.cfg.spacing by omega)
  obtain ⟨t, hticks, hdone⟩ := ticks_burstDone hinv hrun hfree hwindow
  obtain ⟨_, _, t0, -, hbefore, h0⟩ := ticks_burstAt hinv hrun hfree hwindow (n := n) (by omega)
  have htick : exec .tick t0 = .next t := by rw [← ticks_succ_of_next hbefore, ← hlast, hticks]
  have hmode : t.mode = .run := (exec_mode h0.inv htick).trans h0.run
  have hinterval :=
    (ticks_burst_intervalRun hinv hrun hfree hwindow hwait (n := n) (by omega) hbefore).afterInterval
  rw [h0.tick hwindow] at htick
  obtain ⟨hstate, -⟩ := cmdTick_keeps_ka htick
  have hfired : t.kaState = .firingWait := by
    rcases hinterval with ⟨hleft, -⟩ | ⟨-, hfired⟩
    · omega
    · exact hstate.trans hfired
  exact ⟨t, hticks, (kaGrantable_iff t).mpr ⟨hmode, hdone.bus, hfired⟩⟩

end

/-- R163: the grant's first write. -/
theorem startKaBurst_writes (s : State) : (startKaBurst s).trace = s.trace ++ [.act true, .txCtrl encodeKeepalive] := by
  rw [startKaBurst_eq]

/-! ### The obligations -/

/-- Settles O60: the gaps by induction on the run; the interval by its exact expiry; under a burst by both running side by side. -/
theorem parameterConstraintsServe : Obligations.ParameterConstraintsServe := by
  intro s gap cutoff hinv hserves
  have hcutoff : s.cfg.kaInterval + 4 * s.cfg.spacing < cutoff := hserves.interval
  have hrange := hinv.timerRange
  refine ⟨fun is t hgaps hrun => ?_, fun hrun hfree hwait hwindow => ?_, fun hrun hfree hcmd hwait hlate hwindow => ?_⟩
  · obtain ⟨out, hout, hquiet⟩ := runOps_no_hardReset hinv hserves.window (by omega) hgaps hrun
    rwa [newOutputs_of_append hout]
  · have hcmd : s.cmdState ≠ .burst := fun hburst => by simpa [hfree] using hinv.cmdHolds.mpr hburst
    obtain ⟨-, hexpires⟩ := keepAliveExpiresExactly s hrun hwait hcmd (hinv.timerCounts hwait) hwindow
    exact ⟨_, _, hexpires, exec_grantKa_enabled ((kaGrantable_iff _).mpr ⟨hrun, hfree, rfl⟩), startKaBurst_writes _,
      by omega⟩
  · rw [exec_grantCmd_enabled ((cmdGrantable_iff s).mpr ⟨hrun, hfree, hcmd⟩), andThen_next]
    obtain ⟨t, hticks, hgrant⟩ := ticks_burst_fired hinv hrun hfree hwindow hwait hlate
    exact ⟨t, _, hticks, exec_grantKa_enabled hgrant, startKaBurst_writes t, by omega⟩

/-- Settles O40: the reset state, field by field; the mode is the choice that `INIT_OK` makes. -/
theorem resetValues : Obligations.ResetValues := by
  intro s
  refine ⟨resetBlock s, rfl, rfl, rfl, rfl, rfl, rfl, rfl, rfl, rfl, rfl, rfl, rfl, rfl, rfl, rfl, rfl, ?_, ?_, rfl, rfl⟩
  · intro hinit
    simp [hinit]
  · intro hinit
    simp [hinit]

end Sys2Proof.Machine
